-- ==== Sys2Proof/Word.lean ====
section
/-! DEFINITION. The machine's word types: the byte (8 bits) and the address (16 bits), rules R5, R7 and R25 of spec/. -/

namespace Sys2Proof

/-- An 8-bit value: A, B, R and every memory byte (R5 `REG_BITS`, R7 "a byte is 8 bits").
`+` and `-` are taken modulo 256, as R7 has it. -/
abbrev Byte := BitVec 8

/-- A 16-bit value: PC, SP and every address (R5 `ADDR_BITS`, R25). `+` and `-` are taken modulo 65536 (R7). -/
abbrev Addr := BitVec 16

end Sys2Proof
end

