-- ==== Sys2Proof/Config.lean ====
section
/-! DEFINITION. The constants the spec fixes (R5) and the types of the parameters it leaves open (R6). -/

namespace Sys2Proof

/-- `LOAD_BASE`: the address of the first image byte (R5). -/
abbrev loadBase : Nat := 0x8000

/-- `IMAGE_MAX`: the length of the largest image, which fills 0x8000 to 0xFFFF (R5, R106). -/
abbrev imageMax : Nat := 32768

/-- `MEM_SIZE`: the number of byte locations, addresses 0x0000 to 0xFFFF (R5, R25). -/
abbrev memSize : Nat := 65536

/-- `RESET_VECTOR`: the address of the low byte of the reset vector (R5, R26). -/
abbrev resetVector : Addr := 0xFFFC#16

/-- `NMI_VECTOR`: the address of the low byte of the unknown-opcode vector (R5, R26; the source's 0xFFFFF is a misprint, C2). -/
abbrev nmiVector : Addr := 0xFFFE#16

/-- The values of `RET_ADJ` (R6, D2): what `CALL` subtracts from the return address it pushes and `RTS` adds to what it pops. -/
inductive RetAdj where
  | zero
  | one
  deriving DecidableEq, Repr

/-- The values of `JR_BASE` (R6, D5): what `JR` adds to the address of its own opcode byte before the offset. -/
inductive JrBase where
  | zero
  | two
  | three
  deriving DecidableEq, Repr

/-- The open parameters of R6 that a step reads. They are configuration, "fixed for a run, never changed by any step"
(R23 (d)); log 1 says why the state carries them. -/
structure Config where
  /-- `RET_ADJ` (R6, R80, R81) -/
  retAdj : RetAdj
  /-- `RET_LOW_FIRST`: `CALL` pushes the low byte of the return address first (R6, R30) -/
  retLowFirst : Bool
  /-- `PUSH_POST_INC`: a push stores at SP and then increments SP (R6, R35) -/
  pushPostInc : Bool
  /-- `JR_BASE` (R6, R79) -/
  jrBase : JrBase
  deriving DecidableEq, Repr

/-- The parameters of R6 that reset reads, and the configuration of the run it starts. `memInit` is the function `MEM_INIT` from
16-bit addresses to bytes, written as the list of its (address, byte) pairs; an address it does not list has the byte an unlisted
memory address reads as (log 9). -/
structure BootParams where
  /-- `RESET_A` -/
  resetA : Byte
  /-- `RESET_B` -/
  resetB : Byte
  /-- `RESET_R` -/
  resetR : Byte
  /-- `RESET_SP` -/
  resetSP : Addr
  /-- `MEM_INIT` -/
  memInit : List Host.Cell
  /-- `RET_ADJ`, `RET_LOW_FIRST`, `PUSH_POST_INC`, `JR_BASE` -/
  cfg : Config
  deriving DecidableEq, Repr

end Sys2Proof
end

