-- ==== Sys2Proof/Machine/Bytes.lean ====
section
/-! DEFINITION. The byte-order helpers of R7: the two bytes of a 16-bit value and their concatenation. -/

namespace Sys2Proof.Machine

/-- `v[7:0]`, the low byte of a 16-bit value (R7). -/
def lowByte (v : Addr) : Byte := v.extractLsb' 0 8

/-- `v[15:8]`, the high byte of a 16-bit value (R7). -/
def highByte (v : Addr) : Byte := v.extractLsb' 8 8

/-- `{h, l}`, the 16-bit value `h × 256 + l` (R7). -/
def joinBytes (h l : Byte) : Addr := h ++ l

/-- Byte `k` of an instruction read as one number `W`, byte 0 in bits 7:0 (R46). -/
def byteOfNumber (w k : Nat) : Byte := BitVec.ofNat 8 (w >>> (8 * k))

/-- Byte `k` of an instruction given as the number `w` of `nbits` bits, every bit from `nbits` up being 0 (R46). -/
def tableByte (nbits w k : Nat) : Byte := byteOfNumber (w % 2 ^ nbits) k

end Sys2Proof.Machine
end

