-- ==== Sys2Proof/Machine/Parameters.lean ====
section
/-! DEFINITION. The values the model gives the open parameters of R6 at reset (the spec's defaults), and the numbers two of them stand for. -/

namespace Sys2Proof.Machine

/-- What a memory byte that neither the image nor a store supplied reads as: the default of `MEM_INIT` (R6, R24, D8).
DESIGN CHOICE, unsafe: log 9. -/
def unlistedByte : Byte := 0x00

/-- The defaults of `RET_ADJ`, `RET_LOW_FIRST`, `PUSH_POST_INC` and `JR_BASE` (R6, D2 to D5). DESIGN CHOICE, unsafe: logs 2 to 5. -/
def defaultConfig : Config :=
  { retAdj := .zero, retLowFirst := true, pushPostInc := true, jrBase := .zero }

/-- The defaults of `RESET_A`, `RESET_B`, `RESET_R`, `RESET_SP` and `MEM_INIT` (R6, D7, D8). DESIGN CHOICE, unsafe: logs 7 to 9. -/
def defaultBoot : BootParams :=
  { resetA := 0x00, resetB := 0x00, resetR := 0x00, resetSP := 0x0000, memInit := [], cfg := defaultConfig }

/-- The number `RET_ADJ` (R6). -/
def retAdjValue : RetAdj → Addr
  | .zero => 0
  | .one => 1

/-- The number `JR_BASE` (R6). -/
def jrBaseValue : JrBase → Addr
  | .zero => 0
  | .two => 2
  | .three => 3

end Sys2Proof.Machine
end

