-- ==== Sys2Proof/Machine/State.lean ====
section
/-! DEFINITION. The state of the machine (R10), the reasons a step can stop, and the state after reset (R24). -/

namespace Sys2Proof.Machine

/-- Memory (R21, R25): (address, byte) pairs in one canonical form, `Memory.wf` of Machine/Ops.lean. An address it does not list
reads as `unlistedByte`. -/
abbrev Memory := List Host.Cell

/-- The run state (R19). `exit` is "meaningful only when run = HALTED" (R10), so it is held there: log 11. -/
inductive RunState where
  /-- RUNNING -/
  | running
  /-- HALTED, with the exit code `exit` -/
  | halted (exit : Byte)
  deriving DecidableEq, Repr

/-- The complete state of the machine (R10), and the configuration of the run (R6; the model's own field, log 1). -/
structure State where
  /-- general register A (R11) -/
  a : Byte
  /-- general register B (R11) -/
  b : Byte
  /-- hidden result register R (R12) -/
  r : Byte
  /-- program counter: the address of the opcode byte of the next instruction (R13) -/
  pc : Addr
  /-- stack pointer (R16) -/
  sp : Addr
  /-- memory (R21) -/
  mem : Memory
  /-- run state, and the exit code when HALTED (R19) -/
  run : RunState
  /-- the output stream, first byte first (R20) -/
  out : List Byte
  /-- the open parameters a step reads (R6, R23 (d)) -/
  cfg : Config
  deriving DecidableEq, Repr

/-- Faults: none. "There is no fault, error or stuck outcome" (R9); an unknown opcode takes the vector (R91). No step raises one: safe. -/
inductive Fault where
  deriving DecidableEq, Repr

/-- Why the model gives no next state. -/
inductive Refusal where
  /-- an instruction without a meaning yet, raised by its arm of `exec` (no arm does): safe -/
  | notModelled (mnemonic : String)
  /-- raised by `step` in a HALTED state, which "has no step" (R9, R19): safe, nothing can be proved of a step that does not exist (log 11) -/
  | haltedHasNoStep
  deriving DecidableEq, Repr

/-- The machine right after reset with the empty image and the default parameters (R24, R105 to R108; RS2 of `95_test_vectors.md`; log 10).
PC is the pair of bytes at 0xFFFD and 0xFFFC, both unlisted. -/
def State.reset : State :=
  { a := defaultBoot.resetA
    b := defaultBoot.resetB
    r := defaultBoot.resetR
    pc := joinBytes unlistedByte unlistedByte
    sp := defaultBoot.resetSP
    mem := []
    run := .running
    out := []
    cfg := defaultConfig }

end Sys2Proof.Machine
end

