-- ==== Sys2Proof/Machine/Ops.lean ====
section
/-! DEFINITION. The named operations over memory, registers, stack and host interface: the pseudocode primitives of R8. -/

namespace Sys2Proof.Machine

/-! ## Memory as a list of cells -/

/-- The byte at an address: the listed one, or `unlistedByte`. -/
def Memory.read : Memory → Nat → Byte
  | [], _ => unlistedByte
  | (k, v) :: m, addr => if k = addr then v else Memory.read m addr

/-- The memory without any entry for `addr`. -/
def Memory.erase (m : Memory) (addr : Nat) : Memory := m.filter fun c => c.1 != addr

/-- The memory with one more cell, put before the first higher address. -/
def Memory.insert (c : Host.Cell) : Memory → Memory
  | [] => [c]
  | d :: m => if c.1 < d.1 then c :: d :: m else d :: Memory.insert c m

/-- The memory with the byte at `addr` replaced; a byte equal to what an unlisted address reads as is not listed. -/
def Memory.write (m : Memory) (addr : Nat) (v : Byte) : Memory :=
  if v = unlistedByte then m.erase addr else Memory.insert (addr, v) (m.erase addr)

/-- Whether every address of the memory is above `lo`. -/
def Memory.above (lo : Nat) (m : Memory) : Bool := m.all fun c => lo < c.1

/-- The canonical form: addresses strictly rising and below 65536, no entry equal to what an unlisted address reads as. -/
def Memory.wf : Memory → Bool
  | [] => true
  | c :: m => Memory.above c.1 m && decide (c.1 < memSize) && c.2 != unlistedByte && Memory.wf m

/-! ## Registers -/

/-- The names of the general registers (R11); R8 writes them `x[A]` and `x[B]`. -/
inductive Reg where
  | A
  | B
  deriving DecidableEq, Repr

/-- Read of a general register, `x[A]` or `x[B]` (R8). -/
def State.x (s : State) : Reg → Byte
  | .A => s.a
  | .B => s.b

/-- Write of a general register, `x[A] <- v` or `x[B] <- v` (R8). -/
def State.setX (s : State) (g : Reg) (v : Byte) : State :=
  match g with
  | .A => { s with a := v }
  | .B => { s with b := v }

/-- `R <- v` (R8). -/
def State.setR (s : State) (v : Byte) : State := { s with r := v }

/-- `SP <- v` (R8). -/
def State.setSP (s : State) (v : Addr) : State := { s with sp := v }

/-- `pc <- target` (R8): the address of the next instruction to be fetched, reached exactly (R82, D1; log 13). -/
def State.jump (s : State) (target : Addr) : State := { s with pc := target }

/-- The default `pc <- pc + len`, modulo 65536 (R8, R15, D6; log 6). -/
def State.advance (s : State) (len : Nat) : State := { s with pc := s.pc + BitVec.ofNat 16 len }

/-! ## Memory accesses -/

/-- `MemRead(addr, 1)` (R31). -/
def State.read8 (s : State) (addr : Addr) : Byte := s.mem.read addr.toNat

/-- `MemRead(addr, 2)`: low byte at `addr`, high byte at `addr + 1` modulo 65536 (R31). -/
def State.read16 (s : State) (addr : Addr) : Addr := joinBytes (s.read8 (addr + 1)) (s.read8 addr)

/-- `MemWrite(addr, 1, v)` (R32). -/
def State.write8 (s : State) (addr : Addr) (v : Byte) : State := { s with mem := s.mem.write addr.toNat v }

/-! ## The byte stack -/

/-- The address a push stores to (R35): SP, which is then incremented; with `PUSH_POST_INC` = false, SP after its increment. -/
def pushAddress (s : State) : Addr := if s.cfg.pushPostInc then s.sp else s.sp + 1

/-- The address a pop reads (R36): SP after its decrement; with `PUSH_POST_INC` = false, SP, which is then decremented. -/
def popAddress (s : State) : Addr := if s.cfg.pushPostInc then s.sp - 1 else s.sp

/-- `Push8(v)` (R35): one byte stored, and SP + 1 modulo 65536. -/
def push8 (v : Byte) (s : State) : State := (s.write8 (pushAddress s) v).setSP (s.sp + 1)

/-- `Pop8()` (R36): one byte read, and SP - 1 modulo 65536. The popped byte stays in memory. -/
def pop8 (s : State) : Byte × State := (s.read8 (popAddress s), s.setSP (s.sp - 1))

/-- `Push16(v)` (R37): the low byte and then the high byte; with `RET_LOW_FIRST` = false, high and then low. -/
def push16 (v : Addr) (s : State) : State :=
  if s.cfg.retLowFirst then push8 (highByte v) (push8 (lowByte v) s) else push8 (lowByte v) (push8 (highByte v) s)

/-- `Pop16()` (R38): the inverse of `push16`. -/
def pop16 (s : State) : Addr × State :=
  let first := pop8 s
  let second := pop8 first.2
  if s.cfg.retLowFirst then (joinBytes first.1 second.1, second.2) else (joinBytes second.1 first.1, second.2)

/-! ## The host interface -/

/-- `Out(v)`: append `v` to the output stream; it always succeeds (R20, D19; log 16). -/
def output (v : Byte) (s : State) : State := { s with out := s.out ++ [v] }

/-- `Halt(v)`: run <- HALTED, exit <- v (R19, D12). -/
def halt (v : Byte) (s : State) : State := { s with run := .halted v }

/-! ## The exception -/

/-- `raise UnknownOpcode(op)` (R93): PC is set from the vector at 0xFFFE/0xFFFF, read from memory as it is at that moment (D17). Nothing
else changes, nothing is pushed (D10) and nothing is recorded, the byte `op` included (R94). There is no return from it (R98), so
no operation for one: log 14. -/
def raiseUnknownOpcode (_op : Byte) (s : State) : State := s.jump (s.read16 nmiVector)

end Sys2Proof.Machine
end

