-- ==== Sys2Proof/Machine/Flags.lean ====
section
/-! DEFINITION. The results of the arithmetic unit (R64). The machine has no flags (R17): the 8-bit result goes to R, and the one condition
is whether R is zero. -/

namespace Sys2Proof.Machine

/-- 8-bit addition modulo 256; the carry is discarded (R64). -/
def sumResult (a imm8 : Byte) : Byte := a + imm8

/-- 8-bit subtraction modulo 256; the borrow is discarded (R64). -/
def differenceResult (a imm8 : Byte) : Byte := a - imm8

/-- `R == 0`, the only condition of the machine (R17, R78, R82). -/
def State.resultIsZero (s : State) : Bool := s.r == 0

end Sys2Proof.Machine
end

