-- ==== Sys2Proof/Machine/Operands.lean ====
section
/-! DEFINITION. The operand forms (R48, R68) and the address computations of control transfer (R79 to R81). -/

namespace Sys2Proof.Machine

/-- Immediate mode: the operand is the byte `imm8` itself (R68), never extended or scaled (R48). -/
def immediate (imm8 : Byte) : Byte := imm8

/-- Absolute mode: the effective address is `addr16` itself (R68). -/
def effectiveAddress (addr16 : Addr) : Addr := addr16

/-- The target of `JR`: `pc + JR_BASE + sext_16(rel16)`, modulo 65536 (R79). The field is already 16 bits wide, so `sext_16` changes nothing (R7). -/
def relativeTarget (s : State) (rel16 : Addr) : Addr := s.pc + jrBaseValue s.cfg.jrBase + rel16

/-- The value `CALL` pushes: `pc + 3 - RET_ADJ`, modulo 65536 (R80). -/
def returnAddress (s : State) : Addr := s.pc + 3 - retAdjValue s.cfg.retAdj

/-- Where `RTS` continues for a popped value: `ret + RET_ADJ`, modulo 65536 (R81). -/
def returnTarget (s : State) (ret : Addr) : Addr := ret + retAdjValue s.cfg.retAdj

end Sys2Proof.Machine
end

