-- ==== Sys2Proof/Machine/Alu.lean ====
section
/-! DEFINITION. The arithmetic family: ADD, SUB, CMP (`40_alu.md`). All three write R only and leave A as it is (R64). -/

namespace Sys2Proof.Machine

/-- `ADD #imm8` (R65). -/
def execAdd (imm8 : Byte) (s : State) : Host.Outcome State Fault Refusal :=
  .next ((s.setR (sumResult (s.x .A) (immediate imm8))).advance 2)

/-- `SUB #imm8` (R66). -/
def execSub (imm8 : Byte) (s : State) : Host.Outcome State Fault Refusal :=
  .next ((s.setR (differenceResult (s.x .A) (immediate imm8))).advance 2)

/-- `CMP #imm8` (R67; it writes R, C3). -/
def execCmp (imm8 : Byte) (s : State) : Host.Outcome State Fault Refusal :=
  .next ((s.setR (differenceResult (s.x .A) (immediate imm8))).advance 2)

end Sys2Proof.Machine
end

