-- ==== Sys2Proof/Machine/ControlFlow.lean ====
section
/-! DEFINITION. Control transfer: JMP, JZ, JR, CALL, RTS (`42_control_flow.md`). Targets are reached exactly (R82). -/

namespace Sys2Proof.Machine

/-- `JMP addr16` (R77). -/
def execJmp (addr16 : Addr) (s : State) : Host.Outcome State Fault Refusal := .next (s.jump addr16)

/-- `JZ addr16`: the condition is R, not A (R78). -/
def execJz (addr16 : Addr) (s : State) : Host.Outcome State Fault Refusal :=
  .next (if s.resultIsZero then s.jump addr16 else s.advance 3)

/-- `JR rel16` (R79). -/
def execJr (rel16 : Addr) (s : State) : Host.Outcome State Fault Refusal := .next (s.jump (relativeTarget s rel16))

/-- `CALL addr16` (R80): both operand bytes were read before either push (R42). -/
def execCall (addr16 : Addr) (s : State) : Host.Outcome State Fault Refusal :=
  .next ((push16 (returnAddress s) s).jump addr16)

/-- `RTS` (R81). -/
def execRts (s : State) : Host.Outcome State Fault Refusal :=
  .next ((pop16 s).2.jump (returnTarget s (pop16 s).1))

end Sys2Proof.Machine
end

