-- ==== Sys2Proof/Machine/LoadStore.lean ====
section
/-! DEFINITION. Loads, stores and register transfers (`41_load_store_transfer.md`). -/

namespace Sys2Proof.Machine

/-- A general register gets the immediate (R69, R70; log 21). -/
def loadImmediate (g : Reg) (imm8 : Byte) (s : State) : State := (s.setX g (immediate imm8)).advance 2

/-- A general register gets the byte at the absolute address (R71, R72). -/
def loadMemory (g : Reg) (addr16 : Addr) (s : State) : State :=
  (s.setX g (s.read8 (effectiveAddress addr16))).advance 3

/-- The byte at the absolute address becomes a general register's (R73, R74). -/
def storeMemory (g : Reg) (addr16 : Addr) (s : State) : State :=
  (s.write8 (effectiveAddress addr16) (s.x g)).advance 3

/-- One general register gets the other's value (R75, R76). -/
def transfer (source target : Reg) (s : State) : State := (s.setX target (s.x source)).advance 1

/-- `LDA #imm8` (R69). -/
def execLdaImm (imm8 : Byte) (s : State) : Host.Outcome State Fault Refusal := .next (loadImmediate .A imm8 s)

/-- `LDB #imm8` (R70). -/
def execLdbImm (imm8 : Byte) (s : State) : Host.Outcome State Fault Refusal := .next (loadImmediate .B imm8 s)

/-- `LDA addr16` (R71). -/
def execLdaMem (addr16 : Addr) (s : State) : Host.Outcome State Fault Refusal := .next (loadMemory .A addr16 s)

/-- `LDB addr16` (R72). -/
def execLdbMem (addr16 : Addr) (s : State) : Host.Outcome State Fault Refusal := .next (loadMemory .B addr16 s)

/-- `STA addr16` (R73). -/
def execSta (addr16 : Addr) (s : State) : Host.Outcome State Fault Refusal := .next (storeMemory .A addr16 s)

/-- `STB addr16` (R74). -/
def execStb (addr16 : Addr) (s : State) : Host.Outcome State Fault Refusal := .next (storeMemory .B addr16 s)

/-- `TBA`: the source is B (R75). -/
def execTba (s : State) : Host.Outcome State Fault Refusal := .next (transfer .B .A s)

/-- `TAB`: the source is A (R76). -/
def execTab (s : State) : Host.Outcome State Fault Refusal := .next (transfer .A .B s)

end Sys2Proof.Machine
end

