-- ==== Sys2Proof/Machine/Stack.lean ====
section
/-! DEFINITION. The stack instructions: SETSP, PHA, PLA (`43_stack.md`). They are total for every SP (R86). -/

namespace Sys2Proof.Machine

/-- `SETSP addr16` (R83). -/
def execSetsp (addr16 : Addr) (s : State) : Host.Outcome State Fault Refusal := .next ((s.setSP addr16).advance 3)

/-- `PHA` (R84). -/
def execPha (s : State) : Host.Outcome State Fault Refusal := .next ((push8 (s.x .A) s).advance 1)

/-- `PLA` (R85). -/
def execPla (s : State) : Host.Outcome State Fault Refusal := .next (((pop8 s).2.setX .A (pop8 s).1).advance 1)

end Sys2Proof.Machine
end

