-- ==== Sys2Proof/Machine/System.lean ====
section
/-! DEFINITION. The system family: NOP, OUTA, HLT (`44_system.md`). -/

namespace Sys2Proof.Machine

/-- `NOP` (R87). -/
def execNop (s : State) : Host.Outcome State Fault Refusal := .next (s.advance 1)

/-- `OUTA` (R88). -/
def execOuta (s : State) : Host.Outcome State Fault Refusal := .next ((output (s.x .A) s).advance 1)

/-- `HLT`: PC is not advanced (R89, D12). -/
def execHlt (s : State) : Host.Outcome State Fault Refusal := .next (halt (s.x .A) s)

end Sys2Proof.Machine
end

