-- ==== Sys2Proof/Syntax.lean ====
section
/-! DEFINITION. The instructions, one constructor for each row of spec/opcode_table.json (R47), the three formats (R46), and what
decoding can answer (R50). -/

namespace Sys2Proof

/-- The 22 instructions of the opcode table, in the table's order (R47). An operand has exactly the values its field can hold, and
every one of them is legal (R51), so every value of this type is a well-formed instruction. -/
inductive Instr where
  /-- `NOP`, 0x00 (R87) -/
  | nop
  /-- `ADD #imm8`, 0x01 (R65) -/
  | add (imm8 : Byte)
  /-- `OUTA`, 0x02 (R88) -/
  | outa
  /-- `JMP addr16`, 0x03 (R77) -/
  | jmp (addr16 : Addr)
  /-- `JZ addr16`, 0x04 (R78) -/
  | jz (addr16 : Addr)
  /-- `SUB #imm8`, 0x05 (R66) -/
  | sub (imm8 : Byte)
  /-- `JR rel16`, 0x06; the raw two's-complement field (R79, D15) -/
  | jr (rel16 : Addr)
  /-- `CALL addr16`, 0x07 (R80) -/
  | call (addr16 : Addr)
  /-- `SETSP addr16`, 0x08 (R83) -/
  | setsp (addr16 : Addr)
  /-- `TBA`, 0x09 (R75) -/
  | tba
  /-- `TAB`, 0x0A (R76) -/
  | tab
  /-- `LDA #imm8`, 0x0B, the table's `LDA#` (R69) -/
  | ldaImm (imm8 : Byte)
  /-- `LDB #imm8`, 0x0C, the table's `LDB#` (R70) -/
  | ldbImm (imm8 : Byte)
  /-- `LDA addr16`, 0x0D, the table's `LDA(mem)` (R71) -/
  | ldaMem (addr16 : Addr)
  /-- `LDB addr16`, 0x0E, the table's `LDB(mem)` (R72) -/
  | ldbMem (addr16 : Addr)
  /-- `HLT`, 0x0F (R89) -/
  | hlt
  /-- `STA addr16`, 0x10 (R73) -/
  | sta (addr16 : Addr)
  /-- `STB addr16`, 0x11 (R74) -/
  | stb (addr16 : Addr)
  /-- `PHA`, 0x12 (R84) -/
  | pha
  /-- `PLA`, 0x13 (R85) -/
  | pla
  /-- `RTS`, 0x14 (R81) -/
  | rts
  /-- `CMP #imm8`, 0x16 (R67) -/
  | cmp (imm8 : Byte)
  deriving DecidableEq, Repr

/-- The three instruction formats (R46). -/
inductive Format where
  /-- one byte: the opcode -/
  | F0
  /-- two bytes: the opcode and `imm8` -/
  | F8
  /-- three bytes: the opcode, then the low and the high byte of `addr16` or `rel16` -/
  | F16
  deriving DecidableEq, Repr

/-- What `Decode` answers (R50): an instruction, or `UNKNOWN(b0)` for a byte that is no opcode. -/
inductive Decoded where
  | instr (i : Instr)
  | unknown (b0 : Byte)
  deriving DecidableEq, Repr

/-- Why a byte buffer does not begin with an instruction. -/
inductive DecodeError where
  /-- the buffer is empty -/
  | empty
  /-- the first byte is none of the 22 opcodes (R51) -/
  | unknownOpcode (b0 : Byte)
  /-- the buffer ends inside a two- or three-byte instruction (R59; log 23) -/
  | truncated (b0 : Byte)
  deriving DecidableEq, Repr

/-- One line of the sequential listing of a byte buffer (R58). -/
inductive ListingLine where
  /-- an instruction, with its operand -/
  | instr (i : Instr)
  /-- `UNKNOWN OPCODE`, treated as length 1 -/
  | unknown (b0 : Byte)
  /-- the buffer's last bytes, when they end inside an instruction (R59; log 23) -/
  | truncated (bytes : List Byte)
  deriving DecidableEq, Repr

/-- An instruction as an encoder is handed it before any check: an opcode number and perhaps an operand number. -/
structure RawInstr where
  opcode : Nat
  operand : Option Nat
  deriving DecidableEq, Repr

end Sys2Proof
end

