-- ==== Sys2Proof/Machine/Dispatch.lean ====
section
/-! DEFINITION. The meaning of every instruction, one arm each, in the opcode table's order (R47). -/

namespace Sys2Proof.Machine

/-- The effect of one instruction, the next PC included (R15, R52). Whether the machine is RUNNING is the step's question, not this one's. -/
def exec (i : Instr) (s : State) : Host.Outcome State Fault Refusal :=
  match i with
  | .nop => Sys2Proof.Machine.execNop s
  | .add imm8 => Sys2Proof.Machine.execAdd imm8 s
  | .outa => Sys2Proof.Machine.execOuta s
  | .jmp addr16 => Sys2Proof.Machine.execJmp addr16 s
  | .jz addr16 => Sys2Proof.Machine.execJz addr16 s
  | .sub imm8 => Sys2Proof.Machine.execSub imm8 s
  | .jr rel16 => Sys2Proof.Machine.execJr rel16 s
  | .call addr16 => Sys2Proof.Machine.execCall addr16 s
  | .setsp addr16 => Sys2Proof.Machine.execSetsp addr16 s
  | .tba => Sys2Proof.Machine.execTba s
  | .tab => Sys2Proof.Machine.execTab s
  | .ldaImm imm8 => Sys2Proof.Machine.execLdaImm imm8 s
  | .ldbImm imm8 => Sys2Proof.Machine.execLdbImm imm8 s
  | .ldaMem addr16 => Sys2Proof.Machine.execLdaMem addr16 s
  | .ldbMem addr16 => Sys2Proof.Machine.execLdbMem addr16 s
  | .hlt => Sys2Proof.Machine.execHlt s
  | .sta addr16 => Sys2Proof.Machine.execSta addr16 s
  | .stb addr16 => Sys2Proof.Machine.execStb addr16 s
  | .pha => Sys2Proof.Machine.execPha s
  | .pla => Sys2Proof.Machine.execPla s
  | .rts => Sys2Proof.Machine.execRts s
  | .cmp imm8 => Sys2Proof.Machine.execCmp imm8 s

end Sys2Proof.Machine
end

