-- ==== Sys2Proof/Decode.lean ====
section
/-! DEFINITION. Decoding (R46, R48 to R53, R57 to R59) and encoding (R54 to R56), and the opcode table's numbering of bits (R46). -/

namespace Sys2Proof

open Sys2Proof.Machine (lowByte highByte joinBytes byteOfNumber tableByte)

/-- The length in bytes of a format (R46). -/
def Format.length : Format → Nat
  | .F0 => 1
  | .F8 => 2
  | .F16 => 3

/-- The format of the instruction whose first byte this is, none for an unknown opcode (R49). -/
def opcodeFormat (b0 : Byte) : Option Format :=
  match b0 with
  | 0x00#8 => some .F0
  | 0x01#8 => some .F8
  | 0x02#8 => some .F0
  | 0x03#8 => some .F16
  | 0x04#8 => some .F16
  | 0x05#8 => some .F8
  | 0x06#8 => some .F16
  | 0x07#8 => some .F16
  | 0x08#8 => some .F16
  | 0x09#8 => some .F0
  | 0x0A#8 => some .F0
  | 0x0B#8 => some .F8
  | 0x0C#8 => some .F8
  | 0x0D#8 => some .F16
  | 0x0E#8 => some .F16
  | 0x0F#8 => some .F0
  | 0x10#8 => some .F16
  | 0x11#8 => some .F16
  | 0x12#8 => some .F0
  | 0x13#8 => some .F0
  | 0x14#8 => some .F0
  | 0x16#8 => some .F8
  | _ => none

/-- `Decode(b0, b1, b2)` (R50), from the bytes at `pc`, `pc + 1` and `pc + 2`. A 16-bit operand is `{b2, b1}` (R48). The reserved
0x15 and the bytes from 0x17 up are unknown (R51); 0x0B and 0x0C are always two bytes (C4, D11). -/
def decode (b0 b1 b2 : Byte) : Decoded :=
  match b0 with
  | 0x00#8 => .instr .nop
  | 0x01#8 => .instr (.add b1)
  | 0x02#8 => .instr .outa
  | 0x03#8 => .instr (.jmp (joinBytes b2 b1))
  | 0x04#8 => .instr (.jz (joinBytes b2 b1))
  | 0x05#8 => .instr (.sub b1)
  | 0x06#8 => .instr (.jr (joinBytes b2 b1))
  | 0x07#8 => .instr (.call (joinBytes b2 b1))
  | 0x08#8 => .instr (.setsp (joinBytes b2 b1))
  | 0x09#8 => .instr .tba
  | 0x0A#8 => .instr .tab
  | 0x0B#8 => .instr (.ldaImm b1)
  | 0x0C#8 => .instr (.ldbImm b1)
  | 0x0D#8 => .instr (.ldaMem (joinBytes b2 b1))
  | 0x0E#8 => .instr (.ldbMem (joinBytes b2 b1))
  | 0x0F#8 => .instr .hlt
  | 0x10#8 => .instr (.sta (joinBytes b2 b1))
  | 0x11#8 => .instr (.stb (joinBytes b2 b1))
  | 0x12#8 => .instr .pha
  | 0x13#8 => .instr .pla
  | 0x14#8 => .instr .rts
  | 0x16#8 => .instr (.cmp b1)
  | _ => .unknown b0

/-- What an answer of `decode` says of a buffer whose instruction ends where `rest` begins. -/
def Decoded.toResult (d : Decoded) (rest : List Byte) : Except DecodeError (Instr × List Byte) :=
  match d with
  | .instr i => .ok (i, rest)
  | .unknown b0 => .error (.unknownOpcode b0)

/-- The instruction at the head of a byte buffer, and the bytes after it (R49, R50). -/
def decodeBytes : List Byte → Except DecodeError (Instr × List Byte)
  | [] => .error .empty
  | b0 :: rest =>
    match opcodeFormat b0, rest with
    | none, _ => .error (.unknownOpcode b0)
    | some .F0, rest => (decode b0 0 0).toResult rest
    | some .F8, b1 :: rest => (decode b0 b1 0).toResult rest
    | some .F16, b1 :: b2 :: rest => (decode b0 b1 b2).toResult rest
    | some _, _ => .error (.truncated b0)

/-- An answer of `decode` as a line of a listing. -/
def Decoded.toLine : Decoded → ListingLine
  | .instr i => .instr i
  | .unknown b0 => .unknown b0

/-- The sequential walk over a byte buffer: decode at offset 0, advance by the opcode's length (1 for an unknown byte), repeat (R58). -/
def listing : List Byte → List ListingLine
  | [] => []
  | b0 :: rest =>
    match opcodeFormat b0 with
    | none => .unknown b0 :: listing rest
    | some .F0 => (decode b0 0 0).toLine :: listing rest
    | some .F8 =>
      match rest with
      | b1 :: rest' => (decode b0 b1 0).toLine :: listing rest'
      | [] => [.truncated [b0]]
    | some .F16 =>
      match rest with
      | b1 :: b2 :: rest' => (decode b0 b1 b2).toLine :: listing rest'
      | short => [.truncated (b0 :: short)]

/-- The opcode byte of an instruction (R47). -/
def Instr.opcode : Instr → Byte
  | .nop => 0x00
  | .add _ => 0x01
  | .outa => 0x02
  | .jmp _ => 0x03
  | .jz _ => 0x04
  | .sub _ => 0x05
  | .jr _ => 0x06
  | .call _ => 0x07
  | .setsp _ => 0x08
  | .tba => 0x09
  | .tab => 0x0A
  | .ldaImm _ => 0x0B
  | .ldbImm _ => 0x0C
  | .ldaMem _ => 0x0D
  | .ldbMem _ => 0x0E
  | .hlt => 0x0F
  | .sta _ => 0x10
  | .stb _ => 0x11
  | .pha => 0x12
  | .pla => 0x13
  | .rts => 0x14
  | .cmp _ => 0x16

/-- The format of an instruction (R47). -/
def Instr.format : Instr → Format
  | .nop | .outa | .tba | .tab | .hlt | .pha | .pla | .rts => .F0
  | .add _ | .sub _ | .cmp _ | .ldaImm _ | .ldbImm _ => .F8
  | .jmp _ | .jz _ | .jr _ | .call _ | .setsp _ | .ldaMem _ | .ldbMem _ | .sta _ | .stb _ => .F16

/-- The length of an instruction in bytes (R46, R49). -/
def Instr.length (i : Instr) : Nat := i.format.length

/-- The operand bytes an encoder writes after the opcode: none, `imm8`, or the low byte and then the high byte of the 16-bit operand (R54). -/
def Instr.operandBytes : Instr → List Byte
  | .nop | .outa | .tba | .tab | .hlt | .pha | .pla | .rts => []
  | .add v | .sub v | .cmp v | .ldaImm v | .ldbImm v => [v]
  | .jmp a | .jz a | .jr a | .call a | .setsp a | .ldaMem a | .ldbMem a | .sta a | .stb a => [lowByte a, highByte a]

/-- `Encode` (R54): the opcode byte, then the operand bytes. -/
def encode (i : Instr) : List Byte := i.opcode :: i.operandBytes

/-- The encoder places instructions back to back (R56). -/
def assemble (prog : List Instr) : List Byte := prog.flatMap encode

/-- The checked instruction that an opcode number and an operand number stand for: none where the opcode is not defined, the operand
is missing or not wanted, or the operand is out of its field's range (R54; U6 `refuse`). -/
def RawInstr.toInstr (r : RawInstr) : Option Instr :=
  let toOption (d : Decoded) : Option Instr :=
    match d with
    | .instr i => some i
    | .unknown _ => none
  if r.opcode < 256 then
    let b0 := BitVec.ofNat 8 r.opcode
    match opcodeFormat b0, r.operand with
    | some .F0, none => toOption (decode b0 0 0)
    | some .F8, some v => if v < 256 then toOption (decode b0 (byteOfNumber v 0) 0) else none
    | some .F16, some v => if v < 65536 then toOption (decode b0 (byteOfNumber v 0) (byteOfNumber v 1)) else none
    | _, _ => none
  else none

/-- The instruction the decoder reads from the number `w` of `nbits` bits, numbered as spec/opcode_table.json numbers them: byte 0 in
bits 7:0, byte 1 in bits 15:8, byte 2 in bits 23:16 (R46), every bit from `nbits` up being 0. -/
def decodeTableWord (nbits w : Nat) : Option Instr :=
  match decode (tableByte nbits w 0) (tableByte nbits w 1) (tableByte nbits w 2) with
  | .instr i => some i
  | .unknown _ => none

end Sys2Proof
end

