-- ==== Sys2Proof/Machine/Fetch.lean ====
section
/-! DEFINITION. Fetching and decoding the instruction at PC (R42, R52, R57), and placing one there. -/

namespace Sys2Proof.Machine

/-- Fetch and decode (R52): the opcode byte at `pc`, then as many operand bytes as the opcode's format has, at `pc + 1` and `pc + 2`
modulo 65536. The bytes an instruction does not have are not read (R42, R50). -/
def fetch (s : State) : Decoded :=
  match opcodeFormat (s.read8 s.pc) with
  | none => .unknown (s.read8 s.pc)
  | some .F0 => decode (s.read8 s.pc) 0 0
  | some .F8 => decode (s.read8 s.pc) (s.read8 (s.pc + 1)) 0
  | some .F16 => decode (s.read8 s.pc) (s.read8 (s.pc + 1)) (s.read8 (s.pc + 2))

/-- The state with the three bytes of the number `w` of `nbits` bits (every bit from `nbits` up 0) stored where the next step fetches,
byte 0 at `pc`, and RUNNING, without which there is no next step (log 10). -/
def placeAtPC (s : State) (nbits w : Nat) : State :=
  { ((s.write8 s.pc (tableByte nbits w 0)).write8 (s.pc + 1) (tableByte nbits w 1)).write8 (s.pc + 2) (tableByte nbits w 2)
    with run := .running }

end Sys2Proof.Machine
end

