-- ==== Sys2Proof/Machine/Step.lean ====
section
/-! DEFINITION. One execution step (R9, R52). -/

namespace Sys2Proof.Machine

/-- One step (R52): a RUNNING machine executes the instruction at PC, or takes the unknown-opcode vector (R93); a HALTED one has no step (R9). -/
def step (s : State) : Host.Outcome State Fault Refusal :=
  match s.run with
  | .halted _ => .refused .haltedHasNoStep
  | .running =>
    match fetch s with
    | .instr i => exec i s
    | .unknown op => .next (raiseUnknownOpcode op s)

/-- The state with an instruction word stored where `step` fetches its next instruction (R46 numbers the word's bits). -/
def State.withFetchWord (s : State) (nbits w : Nat) : State := placeAtPC s nbits w

end Sys2Proof.Machine
end

