-- ==== Sys2Proof/Machine/Assembly.lean ====
section
/-! DEFINITION. What the spec says of assembly as far as it decides which bytes encode an instruction (R56, R60, R62): the listing
form of an instruction, the load mnemonics' choice of opcode, and the address of each instruction of a program. No step uses it. -/

namespace Sys2Proof.Machine

/-- One upper-case hexadecimal digit (R60). -/
def hexDigit (n : Nat) : Char := if n < 10 then Char.ofNat (48 + n) else Char.ofNat (55 + n)

/-- Exactly two hexadecimal digits (R60). -/
def hexByte (v : Byte) : String := String.ofList [hexDigit (v.toNat / 16), hexDigit (v.toNat % 16)]

/-- Exactly four hexadecimal digits, high byte first (R60). -/
def hexWord (v : Addr) : String := hexByte (highByte v) ++ hexByte (lowByte v)

/-- An immediate operand, `#$XX` (R60). -/
def immediateText (mnemonic : String) (v : Byte) : String := mnemonic ++ " #$" ++ hexByte v

/-- An address or offset operand, `$XXXX` (R60). -/
def addressText (mnemonic : String) (v : Addr) : String := mnemonic ++ " $" ++ hexWord v

/-- The assembly text of an instruction, the "syntax" column of R47. The operand of `JR` is the raw field (D15); `LDA` and `LDB` name
both their opcodes, told apart by the operand's form (R60). -/
def asmText : Instr → String
  | .nop => "NOP"
  | .add v => immediateText "ADD" v
  | .outa => "OUTA"
  | .jmp a => addressText "JMP" a
  | .jz a => addressText "JZ" a
  | .sub v => immediateText "SUB" v
  | .jr r => addressText "JR" r
  | .call a => addressText "CALL" a
  | .setsp a => addressText "SETSP" a
  | .tba => "TBA"
  | .tab => "TAB"
  | .ldaImm v => immediateText "LDA" v
  | .ldbImm v => immediateText "LDB" v
  | .ldaMem a => addressText "LDA" a
  | .ldbMem a => addressText "LDB" a
  | .hlt => "HLT"
  | .sta a => addressText "STA" a
  | .stb a => addressText "STB" a
  | .pha => "PHA"
  | .pla => "PLA"
  | .rts => "RTS"
  | .cmp v => immediateText "CMP" v

/-- The operand of a source line `LDA <operand>` or `LDB <operand>` once its label, if it is one, is resolved (R62). -/
inductive LoadOperand where
  /-- a label already defined, with its address -/
  | label (addr16 : Addr)
  /-- no label: an immediate -/
  | value (imm8 : Byte)
  deriving DecidableEq, Repr

/-- The instruction a source line `LDA <operand>` stands for (R62, D11). -/
def ldaLine : LoadOperand → Instr
  | .label addr16 => .ldaMem addr16
  | .value imm8 => .ldaImm imm8

/-- The instruction a source line `LDB <operand>` stands for (R62, D11). -/
def ldbLine : LoadOperand → Instr
  | .label addr16 => .ldbMem addr16
  | .value imm8 => .ldbImm imm8

/-- The address of the `k`-th instruction of a program placed from `LOAD_BASE` on: the write cursor there, which is the value of a
label defined just before it (R56). -/
def instructionAddress (prog : List Instr) (k : Nat) : Nat := loadBase + (assemble (prog.take k)).length

end Sys2Proof.Machine
end

