-- ==== Sys2Proof/WellFormed.lean ====
section
/-! DEFINITION. What must hold of a term before it is given to the encoder or to the boot sequence. A value of `Instr` needs no check:
its operands have their fields' widths, and no operand value is reserved or illegal (R51). -/

namespace Sys2Proof

/-- The opcode is one of the 22, an operand stands there exactly where the format has one, and it fits its field (R47, R54: `imm8`
ranges over 0x00 to 0xFF, `addr16` and `rel16` over 0x0000 to 0xFFFF). -/
def RawInstr.wf (r : RawInstr) : Bool :=
  r.opcode < 256 &&
    match opcodeFormat (BitVec.ofNat 8 r.opcode), r.operand with
    | some .F0, none => true
    | some .F8, some v => v < 256
    | some .F16, some v => v < 65536
    | _, _ => false

/-- An image has at most 32768 bytes (R106, D9). -/
def imageWf (image : List Byte) : Bool := image.length ≤ imageMax

end Sys2Proof
end

