-- ==== Sys2Proof/Machine/Boot.lean ====
section
/-! DEFINITION. The reset sequence for any image and any value of the open parameters (R105 to R108). -/

namespace Sys2Proof.Machine

/-- Why a start is refused before any machine exists. -/
inductive BootRefusal where
  /-- the image has more than 32768 bytes (R106, D9; log 12): safe -/
  | imageTooLong
  deriving DecidableEq, Repr

/-- Whether the parameters' `MEM_INIT` is written in memory's canonical form. Every function from addresses to bytes has one (log 9). -/
def bootParamsWf (p : BootParams) : Bool := Memory.wf p.memInit

/-- The bytes of an image written to consecutive addresses (R105 step 2). -/
def loadBytes : Memory → Nat → List Byte → Memory
  | m, _, [] => m
  | m, addr, v :: vs => loadBytes (m.write addr v) (addr + 1) vs

/-- The reset sequence of R105: memory at `MEM_INIT`, the image at 0x8000, the registers at their parameters, PC from the reset
vector after the image is in memory (R107), `out` empty, RUNNING. -/
def boot (p : BootParams) (image : List Byte) : Except BootRefusal State :=
  if imageWf image then
    let s : State :=
      { a := p.resetA, b := p.resetB, r := p.resetR, pc := 0, sp := p.resetSP
        mem := loadBytes p.memInit loadBase image, run := .running, out := [], cfg := p.cfg }
    .ok (s.jump (s.read16 resetVector))
  else .error .imageTooLong

end Sys2Proof.Machine
end

