-- ==== Sys2Proof/Safety.lean ====
section
/-! DEFINITION. The terms claims are stated in: runs and their results (R112, R113), what one step stores, and the discipline of R110
under which a run depends on no open parameter of reset. -/

namespace Sys2Proof.Machine

/-! ## Runs -/

/-- `n` steps one after another (R113: a run under fuel). -/
def runSteps : Nat → State → Host.Outcome State Fault Refusal
  | 0, s => .next s
  | n + 1, s =>
    match step s with
    | .next t => runSteps n t
    | .fault f => .fault f
    | .refused r => .refused r

/-- The result of a finished run as the host sees it: the pair (`out`, `exit`) of R112, none while RUNNING. -/
def State.result (s : State) : Option (List Byte × Byte) :=
  match s.run with
  | .running => none
  | .halted e => some (s.out, e)

/-! ## What a step changes -/

/-- Every byte of memory reads the same in both states. -/
def SameBytes (s t : State) : Prop := ∀ addr : Addr, t.read8 addr = s.read8 addr

/-- Every byte of memory but those at `stored` reads the same in both states. -/
def SameBytesBut (stored : List Addr) (s t : State) : Prop :=
  ∀ addr : Addr, addr ∉ stored → t.read8 addr = s.read8 addr

/-- The run state, the output stream and the configuration are the same. -/
def SameHost (s t : State) : Prop := t.run = s.run ∧ t.out = s.out ∧ t.cfg = s.cfg

/-- The instructions that write A (R10 "written by"). -/
def writesA : Instr → Bool
  | .tba | .ldaImm _ | .ldaMem _ | .pla => true
  | .nop | .add _ | .outa | .jmp _ | .jz _ | .sub _ | .jr _ | .call _ | .setsp _ | .tab | .ldbImm _
  | .ldbMem _ | .hlt | .sta _ | .stb _ | .pha | .rts | .cmp _ => false

/-- The instructions that write B (R10 "written by"). -/
def writesB : Instr → Bool
  | .tab | .ldbImm _ | .ldbMem _ => true
  | .nop | .add _ | .outa | .jmp _ | .jz _ | .sub _ | .jr _ | .call _ | .setsp _ | .tba | .ldaImm _
  | .ldaMem _ | .hlt | .sta _ | .stb _ | .pha | .pla | .rts | .cmp _ => false

/-- The instructions that write R (R10 "written by", R12). -/
def writesR : Instr → Bool
  | .add _ | .sub _ | .cmp _ => true
  | .nop | .outa | .jmp _ | .jz _ | .jr _ | .call _ | .setsp _ | .tba | .tab | .ldaImm _ | .ldbImm _
  | .ldaMem _ | .ldbMem _ | .hlt | .sta _ | .stb _ | .pha | .pla | .rts => false

/-- The instructions that write SP (R10 "written by"). -/
def movesSP : Instr → Bool
  | .call _ | .setsp _ | .pha | .pla | .rts => true
  | .nop | .add _ | .outa | .jmp _ | .jz _ | .sub _ | .jr _ | .tba | .tab | .ldaImm _ | .ldbImm _
  | .ldaMem _ | .ldbMem _ | .hlt | .sta _ | .stb _ | .cmp _ => false

/-- The instruction that writes SP as a whole (R16). -/
def setsSP : Instr → Bool
  | .setsp _ => true
  | .nop | .add _ | .outa | .jmp _ | .jz _ | .sub _ | .jr _ | .call _ | .tba | .tab | .ldaImm _
  | .ldbImm _ | .ldaMem _ | .ldbMem _ | .hlt | .sta _ | .stb _ | .pha | .pla | .rts | .cmp _ => false

/-- The addresses an instruction stores to (R28). -/
def storedAddresses (i : Instr) (s : State) : List Addr :=
  match i with
  | .sta addr16 | .stb addr16 => [effectiveAddress addr16]
  | .pha => [pushAddress s]
  | .call _ => [pushAddress s, pushAddress s + 1]
  | .nop | .add _ | .outa | .jmp _ | .jz _ | .sub _ | .jr _ | .setsp _ | .tba | .tab | .ldaImm _ | .ldbImm _
  | .ldaMem _ | .ldbMem _ | .hlt | .pla | .rts | .cmp _ => []

/-- The addresses an instruction reads as data (R28). -/
def loadedAddresses (i : Instr) (s : State) : List Addr :=
  match i with
  | .ldaMem addr16 | .ldbMem addr16 => [effectiveAddress addr16]
  | .pla => [popAddress s]
  | .rts => [popAddress s, popAddress s - 1]
  | .nop | .add _ | .outa | .jmp _ | .jz _ | .sub _ | .jr _ | .setsp _ | .tba | .tab | .ldaImm _ | .ldbImm _
  | .call _ | .hlt | .sta _ | .stb _ | .pha | .cmp _ => []

/-- The next PC of every instruction: the table of R15. -/
def nextPC (i : Instr) (s : State) : Addr :=
  match i with
  | .nop | .outa | .tba | .tab | .pha | .pla => s.pc + 1
  | .add _ | .sub _ | .cmp _ | .ldaImm _ | .ldbImm _ => s.pc + 2
  | .setsp _ | .ldaMem _ | .ldbMem _ | .sta _ | .stb _ => s.pc + 3
  | .jmp addr16 | .call addr16 => addr16
  | .jz addr16 => if s.r = 0 then addr16 else s.pc + 3
  | .jr rel16 => relativeTarget s rel16
  | .rts => returnTarget s (pop16 s).1
  | .hlt => s.pc

/-- Whether a byte is no opcode: 0x15, or 0x17 to 0xFF (R49, R92). -/
def isUnknownOpcode (v : Byte) : Bool := v == 0x15 || 0x17 ≤ v.toNat

/-! ## The discipline of R110 -/

/-- What of the machine's state the image or the program itself has supplied since reset. -/
structure Supplied where
  a : Bool
  b : Bool
  r : Bool
  sp : Bool
  mem : Addr → Bool

/-- Right after reset with an image of `len` bytes: the image's bytes, and no register (R24, R110). -/
def suppliedByImage (len : Nat) : Supplied :=
  { a := false, b := false, r := false, sp := false
    mem := fun addr => loadBase ≤ addr.toNat && addr.toNat < loadBase + len }

/-- The addresses a step fetches from: the instruction's own bytes, or the unknown opcode and the two bytes of its vector (R28, R42). -/
def fetchedAddresses (s : State) : List Addr :=
  match opcodeFormat (s.read8 s.pc) with
  | none => [s.pc, nmiVector, nmiVector + 1]
  | some .F0 => [s.pc]
  | some .F8 => [s.pc, s.pc + 1]
  | some .F16 => [s.pc, s.pc + 1, s.pc + 2]

/-- The registers an instruction reads have been supplied: R110 items 3 (SP), 4 (A and B) and 5 (R). -/
def Supplied.registersFor (k : Supplied) : Instr → Bool
  | .add _ | .sub _ | .cmp _ | .outa | .tab | .sta _ | .hlt => k.a
  | .tba | .stb _ => k.b
  | .jz _ => k.r
  | .pha => k.a && k.sp
  | .pla | .call _ | .rts => k.sp
  | .nop | .jmp _ | .jr _ | .setsp _ | .ldaImm _ | .ldbImm _ | .ldaMem _ | .ldbMem _ => true

/-- The next step of a RUNNING state reads only what was supplied: its fetch (R110 items 1 and 2), its registers, and the bytes it loads (item 6). -/
def Supplied.allowsStep (k : Supplied) (s : State) : Bool :=
  (fetchedAddresses s).all k.mem &&
    match fetch s with
    | .unknown _ => true
    | .instr i => k.registersFor i && (loadedAddresses i s).all k.mem

/-- What is supplied after an instruction: the registers it gives a value and the bytes it stores (R10's "written by" column). -/
def Supplied.after (k : Supplied) (i : Instr) (s : State) : Supplied :=
  { a := k.a || writesA i
    b := k.b || writesB i
    r := k.r || writesR i
    sp := k.sp || setsSP i
    mem := fun addr => k.mem addr || (storedAddresses i s).contains addr }

/-- What is supplied after a step; the unknown-opcode event supplies nothing (R93). -/
def Supplied.afterStep (k : Supplied) (s : State) : Supplied :=
  match fetch s with
  | .instr i => k.after i s
  | .unknown _ => k

/-- The first `n` steps from a state each read only what was supplied before them; a HALTED state takes none. -/
def Supplied.allowsRun : Nat → Supplied → State → Bool
  | 0, _, _ => true
  | n + 1, k, s =>
    match s.run with
    | .halted _ => true
    | .running =>
      k.allowsStep s &&
        match step s with
        | .next t => Supplied.allowsRun n (k.afterStep s) t
        | _ => true

/-- Two states that no program which reads only what was supplied can tell apart. -/
def Supplied.Agree (k : Supplied) (s t : State) : Prop :=
  s.pc = t.pc ∧ s.run = t.run ∧ s.out = t.out ∧ s.cfg = t.cfg ∧
    (k.a = true → s.a = t.a) ∧ (k.b = true → s.b = t.b) ∧ (k.r = true → s.r = t.r) ∧ (k.sp = true → s.sp = t.sp) ∧
    ∀ addr : Addr, k.mem addr = true → s.read8 addr = t.read8 addr

end Sys2Proof.Machine
end

