-- ==== Sys2Proof/Certificates/Slice0/Obligations.lean ====
section
/-! DEFINITION. The statements for the provers. Each docstring names the rules of spec/ it rests on. "D<n>" is a decision of
`92_eei_decisions.md`, the spec's own choice; "log <n>" is notes/assumptions/<n>.md. A statement about a state holds for every value of
the open parameters the state carries. -/

open Sys2Proof Sys2Proof.Machine

/-! ## Encoding and decoding -/

/-- One word of each family, written out from the E1 table of `95_test_vectors.md`, decodes to the instruction it stands for. That 0x0B
and 0x0C are always two bytes is D11 (log 18). -/
def Obligations.WordsOfEachFamilyDecode : Prop :=
  decode 0x01 0x02 0x00 = .instr (.add 0x02) ∧ decode 0x16 0x17 0x00 = .instr (.cmp 0x17) ∧
    decode 0x0B 0x7A 0x00 = .instr (.ldaImm 0x7A) ∧ decode 0x0E 0x34 0x12 = .instr (.ldbMem 0x1234) ∧
    decode 0x10 0x01 0x90 = .instr (.sta 0x9001) ∧ decode 0x09 0x00 0x00 = .instr .tba ∧
    decode 0x03 0x00 0x80 = .instr (.jmp 0x8000) ∧ decode 0x06 0xFB 0xFF = .instr (.jr 0xFFFB) ∧
    decode 0x08 0x00 0x90 = .instr (.setsp 0x9000) ∧ decode 0x12 0x00 0x00 = .instr .pha ∧
    decode 0x0F 0x00 0x00 = .instr .hlt ∧ decode 0x15 0x00 0x00 = .unknown 0x15

/-- R49: the format, and so the length, is a function of the first byte alone: the three lists and the 234 unknown bytes are
exhaustive; an unknown byte counts as length 1 in a sequential decoding. That 0x0B and 0x0C are always two bytes is D11 (log 18). -/
def Obligations.LengthIsFunctionOfFirstByte : Prop :=
  (∀ b0 : Byte,
    (opcodeFormat b0 = some .F0 ↔ b0 ∈ ([0x00, 0x02, 0x09, 0x0A, 0x0F, 0x12, 0x13, 0x14] : List Byte)) ∧
    (opcodeFormat b0 = some .F8 ↔ b0 ∈ ([0x01, 0x05, 0x0B, 0x0C, 0x16] : List Byte)) ∧
    (opcodeFormat b0 = some .F16 ↔ b0 ∈ ([0x03, 0x04, 0x06, 0x07, 0x08, 0x0D, 0x0E, 0x10, 0x11] : List Byte)) ∧
    (opcodeFormat b0 = none ↔ b0 = 0x15 ∨ 0x17 ≤ b0.toNat)) ∧
  Format.F0.length = 1 ∧ Format.F8.length = 2 ∧ Format.F16.length = 3 ∧
  ((List.range 256).filter fun n => opcodeFormat (BitVec.ofNat 8 n) = none).length = 234 ∧
  ∀ (b0 : Byte) (rest : List Byte), opcodeFormat b0 = none → listing (b0 :: rest) = .unknown b0 :: listing rest

/-- R50: the decoding of every byte triple. That 0x0B and 0x0C are always two bytes is D11 (log 18). -/
def Obligations.DecodeFollowsTable : Prop :=
  ∀ b1 b2 : Byte,
    decode 0x00 b1 b2 = .instr .nop ∧ decode 0x01 b1 b2 = .instr (.add b1) ∧ decode 0x02 b1 b2 = .instr .outa ∧
    decode 0x03 b1 b2 = .instr (.jmp (joinBytes b2 b1)) ∧ decode 0x04 b1 b2 = .instr (.jz (joinBytes b2 b1)) ∧
    decode 0x05 b1 b2 = .instr (.sub b1) ∧ decode 0x06 b1 b2 = .instr (.jr (joinBytes b2 b1)) ∧
    decode 0x07 b1 b2 = .instr (.call (joinBytes b2 b1)) ∧ decode 0x08 b1 b2 = .instr (.setsp (joinBytes b2 b1)) ∧
    decode 0x09 b1 b2 = .instr .tba ∧ decode 0x0A b1 b2 = .instr .tab ∧ decode 0x0B b1 b2 = .instr (.ldaImm b1) ∧
    decode 0x0C b1 b2 = .instr (.ldbImm b1) ∧ decode 0x0D b1 b2 = .instr (.ldaMem (joinBytes b2 b1)) ∧
    decode 0x0E b1 b2 = .instr (.ldbMem (joinBytes b2 b1)) ∧ decode 0x0F b1 b2 = .instr .hlt ∧
    decode 0x10 b1 b2 = .instr (.sta (joinBytes b2 b1)) ∧ decode 0x11 b1 b2 = .instr (.stb (joinBytes b2 b1)) ∧
    decode 0x12 b1 b2 = .instr .pha ∧ decode 0x13 b1 b2 = .instr .pla ∧ decode 0x14 b1 b2 = .instr .rts ∧
    decode 0x16 b1 b2 = .instr (.cmp b1) ∧
    ∀ b0 : Byte, b0 = 0x15 ∨ 0x17 ≤ b0.toNat → decode b0 b1 b2 = .unknown b0

/-- R48: the operand of a decoded instruction is byte 1, or byte 2 × 256 + byte 1, and nothing else. -/
def Obligations.OperandsAreAssembledFromBytes : Prop :=
  ∀ (b0 b1 b2 : Byte) (i : Instr), decode b0 b1 b2 = .instr i →
    (∀ v, i = .add v ∨ i = .sub v ∨ i = .cmp v ∨ i = .ldaImm v ∨ i = .ldbImm v → v = b1) ∧
    ∀ w, i = .jmp w ∨ i = .jz w ∨ i = .jr w ∨ i = .call w ∨ i = .setsp w ∨ i = .ldaMem w ∨ i = .ldbMem w ∨ i = .sta w ∨ i = .stb w →
      w.toNat = b2.toNat * 256 + b1.toNat

/-- R54: the bytes of every instruction. -/
def Obligations.EncodeFollowsTable : Prop :=
  ∀ (v : Byte) (w : Addr),
    encode .nop = [0x00] ∧ encode (.add v) = [0x01, v] ∧ encode .outa = [0x02] ∧
    encode (.jmp w) = [0x03, lowByte w, highByte w] ∧ encode (.jz w) = [0x04, lowByte w, highByte w] ∧
    encode (.sub v) = [0x05, v] ∧ encode (.jr w) = [0x06, lowByte w, highByte w] ∧
    encode (.call w) = [0x07, lowByte w, highByte w] ∧ encode (.setsp w) = [0x08, lowByte w, highByte w] ∧
    encode .tba = [0x09] ∧ encode .tab = [0x0A] ∧ encode (.ldaImm v) = [0x0B, v] ∧ encode (.ldbImm v) = [0x0C, v] ∧
    encode (.ldaMem w) = [0x0D, lowByte w, highByte w] ∧ encode (.ldbMem w) = [0x0E, lowByte w, highByte w] ∧
    encode .hlt = [0x0F] ∧ encode (.sta w) = [0x10, lowByte w, highByte w] ∧
    encode (.stb w) = [0x11, lowByte w, highByte w] ∧ encode .pha = [0x12] ∧ encode .pla = [0x13] ∧ encode .rts = [0x14] ∧
    encode (.cmp v) = [0x16, v] ∧ (lowByte w).toNat = w.toNat % 256 ∧ (highByte w).toNat = w.toNat / 256

/-- R55, second half: encoding what a byte triple decodes to gives the triple's first bytes back. That 0x0B and 0x0C are always two bytes
is D11 (log 18). -/
def Obligations.EncodeOfDecodedBytes : Prop :=
  ∀ (b0 b1 b2 : Byte) (i : Instr), decode b0 b1 b2 = .instr i →
    opcodeFormat b0 = some i.format ∧ encode i = [b0, b1, b2].take i.length

/-- R53 (and R55, first half): a buffer decodes to an instruction exactly when it begins with that instruction's encoding, so each
instruction has exactly one encoding and each defined byte sequence is exactly one instruction. That 0x0B and 0x0C are always two bytes
is D11 (log 18). -/
def Obligations.DecodingIsInverseOfEncoding : Prop :=
  ∀ (bytes rest : List Byte) (i : Instr), decodeBytes bytes = .ok (i, rest) ↔ bytes = encode i ++ rest

/-- R55, R56, R58: the sequential listing of instructions placed back to back, whatever bytes follow them, is those instructions. That
0x0B and 0x0C are always two bytes is D11 (log 18). -/
def Obligations.ListingOfAssembledProgram : Prop :=
  ∀ (prog : List Instr) (bytes : List Byte),
    listing (assemble prog ++ bytes) = prog.map .instr ++ listing bytes

/-- R54, U6: an unchecked instruction is accepted exactly when it is well formed, and then has that opcode and that operand. That 0x0B and
0x0C are always two bytes is D11 (log 18). -/
def Obligations.EncoderAcceptsExactlyWellFormed : Prop :=
  ∀ r : RawInstr, r.toInstr.isSome = r.wf ∧
    ∀ i, r.toInstr = some i → i.opcode.toNat = r.opcode ∧
      i.operandBytes.foldr (fun v n => v.toNat + 256 * n) 0 = r.operand.getD 0

/-! ## The step -/

/-- R52: a RUNNING machine's step is the meaning of the instruction that the bytes at PC decode to, with nothing around it. The wrap of
the addresses is D6 (log 6). -/
def Obligations.StepRunsDecodedInstruction : Prop :=
  ∀ (s : State) (i : Instr), s.run = .running →
    decode (s.read8 s.pc) (s.read8 (s.pc + 1)) (s.read8 (s.pc + 2)) = .instr i → step s = exec i s

/-- R29, R52, R57: where the bytes from PC on, modulo 65536 (D6, log 6), are the encoding of an instruction, the step runs it. -/
def Obligations.StoredEncodingIsRun : Prop :=
  ∀ (s : State) (i : Instr), s.run = .running →
    (∀ (k : Nat) (h : k < (encode i).length), s.read8 (s.pc + BitVec.ofNat 16 k) = (encode i)[k]) → step s = exec i s

/-- R46: an instruction word placed by `withFetchWord` is the one the very next step runs. That the placed word makes the machine RUNNING
is the model's choice (log 10); the wrap of the addresses is D6 (log 6). -/
def Obligations.FetchWordIsRun : Prop :=
  ∀ (s : State) (nbits w : Nat) (i : Instr), decodeTableWord nbits w = some i →
    step (s.withFetchWord nbits w) = exec i (s.withFetchWord nbits w)

/-- R9: a step of a RUNNING state has exactly three kinds of outcome; a HALTED state has none. -/
def Obligations.ThreeKindsOfOutcome : Prop :=
  ∀ s : State,
    (s.run = .running → ∃ t, step s = .next t ∧
      ((∃ i, i ≠ .hlt ∧ fetch s = .instr i ∧ exec i s = .next t ∧ t.run = .running) ∨
        (∃ op, fetch s = .unknown op ∧ t = raiseUnknownOpcode op s ∧ t.run = .running) ∨
        (fetch s = .instr .hlt ∧ exec .hlt s = .next t ∧ ∃ e, t.run = .halted e))) ∧
    ∀ e, s.run = .halted e → ∀ t, step s ≠ .next t

/-- R42: `CALL` goes to the target its operand bytes held at the fetch, wherever SP points, its own operand bytes included. That the
target is reached exactly is D1 (log 13). The wrap of the addresses is D6 (log 6). -/
def Obligations.CallTargetIsReadBeforePushes : Prop :=
  ∀ s : State, s.run = .running → s.read8 s.pc = 0x07 →
    ∃ t, step s = .next t ∧ t.pc = joinBytes (s.read8 (s.pc + 2)) (s.read8 (s.pc + 1))

/-- R44: a byte stored just behind a `STA` is the opcode byte of the next fetch, followed by the bytes that were there. The wrap of PC + 3
is D6 (log 6). That every address is plain RAM is D18 (log 15). -/
def Obligations.StoredByteIsFetchedNext : Prop :=
  ∀ s t : State, exec (.sta (s.pc + 3)) s = .next t →
    fetch t = decode s.a (s.read8 (s.pc + 4)) (s.read8 (s.pc + 5))

/-- R15: the next PC of every instruction, its wrap modulo 65536 (D6, log 6), exact targets (D1, log 13) and the PC kept at a `HLT` (D12,
log 11) included, for every value of the parameters of `JR`, `CALL` and `RTS` (D2 to D5, logs 2 to 5). That 0x0B and 0x0C are always two
bytes is D11 (log 18). -/
def Obligations.NextPCOfEveryInstruction : Prop :=
  ∀ (i : Instr) (s : State), ∃ t, exec i s = .next t ∧ t.pc = nextPC i s

/-- R10 (and D13): what an instruction does not write, it leaves as it was; for `HLT` that is D12 (log 11). That every address is plain
RAM is D18 (log 15). -/
def Obligations.OnlyWritersWrite : Prop :=
  ∀ (i : Instr) (s t : State), exec i s = .next t →
    (writesA i = false → t.a = s.a) ∧ (writesB i = false → t.b = s.b) ∧ (writesR i = false → t.r = s.r) ∧
    (movesSP i = false → t.sp = s.sp) ∧ SameBytesBut (storedAddresses i s) s t ∧ (i ≠ .hlt → t.run = s.run) ∧
    (i ≠ .outa → t.out = s.out) ∧ t.cfg = s.cfg

/-- R12: R is the result of the most recent of `ADD`, `SUB` and `CMP`; nothing else writes it; `JZ` alone reads it, and sees only
whether it is zero. That the unknown-opcode event leaves R is D10, the spec's own reading (log 14). -/
def Obligations.ResultRegisterIsHidden : Prop :=
  (∀ (v : Byte) (s t : State), exec (.add v) s = .next t → t.r.toNat = (s.a.toNat + v.toNat) % 256) ∧
  (∀ (v : Byte) (s t : State), exec (.sub v) s = .next t ∨ exec (.cmp v) s = .next t →
    t.r.toNat = (s.a.toNat + 256 - v.toNat) % 256) ∧
  (∀ (i : Instr) (s t : State), (∀ v, i ≠ .add v ∧ i ≠ .sub v ∧ i ≠ .cmp v) → exec i s = .next t → t.r = s.r) ∧
  (∀ (op : Byte) (s : State), (raiseUnknownOpcode op s).r = s.r) ∧
  (∀ (i : Instr) (s t : State) (v : Byte), (∀ target, i ≠ .jz target) → exec i s = .next t →
    ∃ u, exec i { s with r := v } = .next u ∧ { u with r := t.r } = t) ∧
  (∀ (target : Addr) (s t : State) (v : Byte), (v = 0 ↔ s.r = 0) → exec (.jz target) s = .next t →
    exec (.jz target) { s with r := v } = .next { t with r := v })

/-! ## Arithmetic -/

/-- R65, and R7's 16-bit sum for the next PC (its wrap is D6, log 6). -/
def Obligations.AddWritesResultOnly : Prop :=
  ∀ (imm8 : Byte) (s : State), ∃ t, exec (.add imm8) s = .next t ∧
    t.r.toNat = (s.a.toNat + imm8.toNat) % 256 ∧ t.pc = s.pc + 2 ∧
    t.a = s.a ∧ t.b = s.b ∧ t.sp = s.sp ∧ SameHost s t ∧ SameBytes s t

/-- R66 and R67: `SUB` and `CMP` have the same effect. The wrap of the next PC is D6 (log 6). -/
def Obligations.SubAndCmpWriteResultOnly : Prop :=
  ∀ (imm8 : Byte) (s : State), ∃ t, exec (.sub imm8) s = .next t ∧ exec (.cmp imm8) s = .next t ∧
    t.r.toNat = (s.a.toNat + 256 - imm8.toNat) % 256 ∧ t.pc = s.pc + 2 ∧
    t.a = s.a ∧ t.b = s.b ∧ t.sp = s.sp ∧ SameHost s t ∧ SameBytes s t

/-- R64 with R78: what a `JZ` right after an arithmetic instruction tells of its operands. That a taken JZ goes exactly to its target, low
byte 0x00 included, is D1 (log 13); the wrap of the untaken branch's PC is D6 (log 6). -/
def Obligations.BranchAfterArithmetic : Prop :=
  ∀ (imm8 : Byte) (target : Addr) (s t u : State), target ≠ t.pc + 3 → exec (.jz target) t = .next u →
    (exec (.add imm8) s = .next t → (u.pc = target ↔ imm8.toNat = (256 - s.a.toNat) % 256)) ∧
    (exec (.sub imm8) s = .next t ∨ exec (.cmp imm8) s = .next t → (u.pc = target ↔ s.a = imm8))

/-! ## Loads, stores, transfers -/

/-- R69 and R70 (the spec's own reading of the table's rows, N26; log 21). The wrap of the next PC is D6 (log 6). That 0x0B and 0x0C are
always two bytes is D11 (log 18). -/
def Obligations.LoadImmediateCopiesOperand : Prop :=
  ∀ (imm8 : Byte) (s : State),
    (∃ t, exec (.ldaImm imm8) s = .next t ∧ t.a = imm8 ∧ t.b = s.b ∧ t.r = s.r ∧ t.pc = s.pc + 2 ∧
      t.sp = s.sp ∧ SameHost s t ∧ SameBytes s t) ∧
    ∃ t, exec (.ldbImm imm8) s = .next t ∧ t.b = imm8 ∧ t.a = s.a ∧ t.r = s.r ∧ t.pc = s.pc + 2 ∧
      t.sp = s.sp ∧ SameHost s t ∧ SameBytes s t

/-- R71 and R72. The wrap of the next PC is D6 (log 6). That every address is plain RAM is D18 (log 15). -/
def Obligations.LoadMemoryReadsAddress : Prop :=
  ∀ (addr16 : Addr) (s : State),
    (∃ t, exec (.ldaMem addr16) s = .next t ∧ t.a = s.read8 addr16 ∧ t.b = s.b ∧ t.r = s.r ∧ t.pc = s.pc + 3 ∧
      t.sp = s.sp ∧ SameHost s t ∧ SameBytes s t) ∧
    ∃ t, exec (.ldbMem addr16) s = .next t ∧ t.b = s.read8 addr16 ∧ t.a = s.a ∧ t.r = s.r ∧ t.pc = s.pc + 3 ∧
      t.sp = s.sp ∧ SameHost s t ∧ SameBytes s t

/-- R73 and R74. The wrap of the next PC is D6 (log 6). That every address is plain RAM is D18 (log 15). -/
def Obligations.StoreWritesOneByte : Prop :=
  ∀ (addr16 : Addr) (s : State),
    (∃ t, exec (.sta addr16) s = .next t ∧ t.read8 (effectiveAddress addr16) = s.a ∧
      SameBytesBut [effectiveAddress addr16] s t ∧ t.a = s.a ∧ t.b = s.b ∧ t.r = s.r ∧ t.pc = s.pc + 3 ∧ t.sp = s.sp ∧ SameHost s t) ∧
    ∃ t, exec (.stb addr16) s = .next t ∧ t.read8 (effectiveAddress addr16) = s.b ∧
      SameBytesBut [effectiveAddress addr16] s t ∧ t.a = s.a ∧ t.b = s.b ∧ t.r = s.r ∧ t.pc = s.pc + 3 ∧ t.sp = s.sp ∧ SameHost s t

/-- R75 and R76. The wrap of the next PC is D6 (log 6). -/
def Obligations.TransferCopiesRegister : Prop :=
  ∀ s : State,
    (∃ t, exec .tba s = .next t ∧ t.a = s.b ∧ t.b = s.b ∧ t.r = s.r ∧ t.pc = s.pc + 1 ∧ t.sp = s.sp ∧ SameHost s t ∧ SameBytes s t) ∧
    ∃ t, exec .tab s = .next t ∧ t.b = s.a ∧ t.a = s.a ∧ t.r = s.r ∧ t.pc = s.pc + 1 ∧ t.sp = s.sp ∧ SameHost s t ∧ SameBytes s t

/-! ## Control transfer -/

/-- R77: its bytes, and its whole effect. That every target is reached exactly, low byte 0x00 included, is D1 (log 13). -/
def Obligations.JmpGoesToAddress : Prop :=
  ∀ (addr16 : Addr) (s : State), encode (.jmp addr16) = [0x03, lowByte addr16, highByte addr16] ∧ ∃ t, exec (.jmp addr16) s = .next t ∧ t.pc = addr16 ∧
    t.a = s.a ∧ t.b = s.b ∧ t.r = s.r ∧ t.sp = s.sp ∧ SameHost s t ∧ SameBytes s t

/-- R78: R decides, A does not. That the target is reached exactly is D1 (log 13); the wrap of the untaken branch's PC is D6 (log 6). -/
def Obligations.JzBranchesOnZeroResult : Prop :=
  ∀ (addr16 : Addr) (s : State), ∃ t, exec (.jz addr16) s = .next t ∧
    (s.r = 0 → t.pc = addr16) ∧ (s.r ≠ 0 → t.pc = s.pc + 3) ∧
    t.a = s.a ∧ t.b = s.b ∧ t.r = s.r ∧ t.sp = s.sp ∧ SameHost s t ∧ SameBytes s t

/-- R79, for every `JR_BASE` (D5, log 5): the signed and the unsigned reading of `rel16` give this one target, modulo 65536 (D6, log 6),
reached exactly (D1, log 13). -/
def Obligations.JrAddsSignedOffset : Prop :=
  ∀ (rel16 : Addr) (s : State), ∃ t, exec (.jr rel16) s = .next t ∧
    (t.pc.toNat : Int) = ((s.pc.toNat : Int) + ((jrBaseValue s.cfg.jrBase).toNat : Int) + rel16.toInt) % 65536 ∧
    t.pc.toNat = (s.pc.toNat + (jrBaseValue s.cfg.jrBase).toNat + rel16.toNat) % 65536 ∧
    t.a = s.a ∧ t.b = s.b ∧ t.r = s.r ∧ t.sp = s.sp ∧ SameHost s t ∧ SameBytes s t

/-- R80 with R37, for every `RET_ADJ`, `RET_LOW_FIRST` and `PUSH_POST_INC` (D2 to D4, logs 2 to 4), modulo 65536 (D6, log 6); exact
target: D1 (log 13). That every address is plain RAM is D18 (log 15). -/
def Obligations.CallPushesReturnAddress : Prop :=
  ∀ (addr16 : Addr) (s : State), ∃ t, exec (.call addr16) s = .next t ∧
    t.pc = addr16 ∧ t.sp = s.sp + 2 ∧
    t.read8 (pushAddress s) = (if s.cfg.retLowFirst then lowByte (returnAddress s) else highByte (returnAddress s)) ∧
    t.read8 (pushAddress s + 1) = (if s.cfg.retLowFirst then highByte (returnAddress s) else lowByte (returnAddress s)) ∧
    SameBytesBut [pushAddress s, pushAddress s + 1] s t ∧
    t.a = s.a ∧ t.b = s.b ∧ t.r = s.r ∧ SameHost s t

/-- R81 with R38, for every `RET_ADJ`, `RET_LOW_FIRST` and `PUSH_POST_INC` (D2 to D4, logs 2 to 4), modulo 65536 (D6, log 6); exact
target: D1 (log 13). That every address is plain RAM is D18 (log 15). -/
def Obligations.RtsPopsReturnAddress : Prop :=
  ∀ s : State, ∃ t, exec .rts s = .next t ∧
    t.pc = (if s.cfg.retLowFirst then joinBytes (s.read8 (popAddress s)) (s.read8 (popAddress s - 1))
      else joinBytes (s.read8 (popAddress s - 1)) (s.read8 (popAddress s))) + retAdjValue s.cfg.retAdj ∧
    t.sp = s.sp - 2 ∧ t.a = s.a ∧ t.b = s.b ∧ t.r = s.r ∧ SameHost s t ∧ SameBytes s t

/-- The second invariant of part 3 of `95_test_vectors.md`: a subroutine that leaves SP and the two pushed bytes as it found them returns
behind its `CALL`, whatever the parameters (D2 to D4, logs 2 to 4; D6, log 6; exact targets D1, log 13). That every address is plain RAM
is D18 (log 15). -/
def Obligations.MatchedReturnComesBack : Prop :=
  ∀ (addr16 : Addr) (s t u : State), exec (.call addr16) s = .next t → u.sp = t.sp → u.cfg = t.cfg →
    u.read8 (pushAddress s) = t.read8 (pushAddress s) → u.read8 (pushAddress s + 1) = t.read8 (pushAddress s + 1) →
    ∃ v, exec .rts u = .next v ∧ v.pc = s.pc + 3 ∧ v.sp = s.sp

/-! ## The stack instructions -/

/-- R83. The wrap of the next PC is D6 (log 6). -/
def Obligations.SetspLoadsStackPointer : Prop :=
  ∀ (addr16 : Addr) (s : State), ∃ t, exec (.setsp addr16) s = .next t ∧ t.sp = addr16 ∧ t.pc = s.pc + 3 ∧
    t.a = s.a ∧ t.b = s.b ∧ t.r = s.r ∧ SameHost s t ∧ SameBytes s t

/-- R84 with R35, for every `PUSH_POST_INC` (D4, log 4), modulo 65536 (D6, log 6). That every address is plain RAM is D18 (log 15). -/
def Obligations.PhaPushesA : Prop :=
  ∀ s : State, ∃ t, exec .pha s = .next t ∧ t.read8 (pushAddress s) = s.a ∧ SameBytesBut [pushAddress s] s t ∧
    t.sp = s.sp + 1 ∧ t.pc = s.pc + 1 ∧ t.a = s.a ∧ t.b = s.b ∧ t.r = s.r ∧ SameHost s t

/-- R85 with R36, for every `PUSH_POST_INC` (D4, log 4), modulo 65536 (D6, log 6). That every address is plain RAM is D18 (log 15). -/
def Obligations.PlaPopsIntoA : Prop :=
  ∀ s : State, ∃ t, exec .pla s = .next t ∧ t.a = s.read8 (popAddress s) ∧ t.sp = s.sp - 1 ∧ t.pc = s.pc + 1 ∧
    t.b = s.b ∧ t.r = s.r ∧ SameHost s t ∧ SameBytes s t

/-- The first invariant of part 3 of `95_test_vectors.md`: a pull that finds SP and the pushed byte as the push left them restores A and
SP, whatever the parameters (D4, log 4; D6, log 6). That every address is plain RAM is D18 (log 15). -/
def Obligations.PullUndoesPush : Prop :=
  ∀ s t u : State, exec .pha s = .next t → u.sp = t.sp → u.cfg = t.cfg →
    u.read8 (pushAddress s) = t.read8 (pushAddress s) → ∃ v, exec .pla u = .next v ∧ v.a = s.a ∧ v.sp = s.sp

/-! ## System instructions -/

/-- R87. The wrap of the next PC is D6 (log 6). -/
def Obligations.NopOnlyAdvances : Prop :=
  ∀ s : State, ∃ t, exec .nop s = .next t ∧ t.pc = s.pc + 1 ∧
    t.a = s.a ∧ t.b = s.b ∧ t.r = s.r ∧ t.sp = s.sp ∧ SameHost s t ∧ SameBytes s t

/-- R88: the output never fails or blocks (D19, log 16). The wrap of the next PC is D6 (log 6). -/
def Obligations.OutaAppendsA : Prop :=
  ∀ s : State, ∃ t, exec .outa s = .next t ∧ t.out = s.out ++ [s.a] ∧ t.pc = s.pc + 1 ∧
    t.a = s.a ∧ t.b = s.b ∧ t.r = s.r ∧ t.sp = s.sp ∧ t.run = s.run ∧ t.cfg = s.cfg ∧ SameBytes s t

/-- R89: PC stays at the `HLT` and the state is kept (D12, log 11); the exit code is A (D20, log 17). -/
def Obligations.HltHaltsWithA : Prop :=
  ∀ s : State, ∃ t, exec .hlt s = .next t ∧ t.run = .halted s.a ∧ t.pc = s.pc ∧
    t.a = s.a ∧ t.b = s.b ∧ t.r = s.r ∧ t.sp = s.sp ∧ t.out = s.out ∧ t.cfg = s.cfg ∧ SameBytes s t

/-- R112: a run ends from the inside in one way only, and its result is `out` and A; the state kept in HALTED is D12 (log 11). The exit
code is D20 (log 17). -/
def Obligations.RunEndsOnlyByHlt : Prop :=
  ∀ (n : Nat) (s t : State), runSteps n s = .next t → s.result = none →
    (t.result ≠ none ↔ ∃ k u, n = k + 1 ∧ runSteps k s = .next u ∧ fetch u = .instr .hlt ∧
      t = { u with run := .halted u.a } ∧ t.result = some (u.out, u.a))

/-! ## The unknown-opcode exception -/

/-- R92: the cause, and that neither the following bytes nor the value of the byte matters. -/
def Obligations.UnknownOpcodeCause : Prop :=
  (∀ s : State, s.run = .running →
    ((∃ op, fetch s = .unknown op ∧ step s = .next (raiseUnknownOpcode op s)) ↔
      s.read8 s.pc = 0x15 ∨ 0x17 ≤ (s.read8 s.pc).toNat)) ∧
  (∀ (s t : State) (op : Byte), fetch s = .unknown op → t.read8 t.pc = s.read8 s.pc → fetch t = .unknown op) ∧
  (∀ (op op' : Byte) (s : State), raiseUnknownOpcode op s = raiseUnknownOpcode op' s) ∧
  ((List.range 256).filter fun n => isUnknownOpcode (BitVec.ofNat 8 n)).length = 234

/-- R93: PC is the vector read from memory at that moment (D17), and nothing else changes (D10); log 14. The
address is reached exactly: D1 (log 13). -/
def Obligations.UnknownOpcodeTakesVector : Prop :=
  ∀ s : State, s.run = .running → s.read8 s.pc = 0x15 ∨ 0x17 ≤ (s.read8 s.pc).toNat →
    ∃ t, step s = .next t ∧ t.pc.toNat = (s.read8 0xFFFF).toNat * 256 + (s.read8 0xFFFE).toNat ∧
      t.a = s.a ∧ t.b = s.b ∧ t.r = s.r ∧ t.sp = s.sp ∧ SameHost s t ∧ SameBytes s t

/-- R94: after the event nothing tells where it happened, nor which byte caused it but that byte itself. That the event leaves
that byte, and every other, as it was is D10 (log 14). -/
def Obligations.UnknownOpcodeRecordsNothing : Prop :=
  (∀ (s : State) (p q : Addr), isUnknownOpcode (s.read8 p) = true → isUnknownOpcode (s.read8 q) = true →
    step { s with pc := p } = step { s with pc := q }) ∧
  ∀ (s t : State) (v : Byte), isUnknownOpcode (s.read8 s.pc) = true → isUnknownOpcode v = true →
    s.pc ≠ 0xFFFE → s.pc ≠ 0xFFFF → step s = .next t → step (s.write8 s.pc v) = .next (t.write8 s.pc v)

/-- R98: where the vector points at an unknown opcode, every step takes the vector again and nothing else changes, for ever (D10, D17; log 14;
exact target D1, log 13). -/
def Obligations.UnknownOpcodeAtVectorLoops : Prop :=
  ∀ (n : Nat) (s : State), s.run = .running → isUnknownOpcode (s.read8 s.pc) = true →
    isUnknownOpcode (s.read8 (s.read16 nmiVector)) = true →
    runSteps (n + 1) s = .next { s with pc := s.read16 nmiVector }

/-! ## Memory -/

/-- R32, with the address an integer reduced modulo 65536. That every address is plain RAM is D18 (log 15); the wrap of the fetch's
addresses is D6 (log 6). -/
def Obligations.MemWriteChangesOneByte : Prop :=
  ∀ (s : State) (addr : Nat) (v : Byte),
    (s.write8 (BitVec.ofNat 16 addr) v).read8 (BitVec.ofNat 16 addr) = v ∧
    (∀ other : Addr, other.toNat ≠ addr % 65536 → (s.write8 (BitVec.ofNat 16 addr) v).read8 other = s.read8 other) ∧
    (s.pc.toNat = addr % 65536 →
      fetch (s.write8 (BitVec.ofNat 16 addr) v) = decode v ((s.write8 (BitVec.ofNat 16 addr) v).read8 (s.pc + 1))
        ((s.write8 (BitVec.ofNat 16 addr) v).read8 (s.pc + 2))) ∧
    (s.write8 (BitVec.ofNat 16 addr) v) = { s with mem := (s.write8 (BitVec.ofNat 16 addr) v).mem }

/-- The model's own invariant (log 9): memory keeps its canonical form through every step, so equal memories are equal data. -/
def Obligations.StepKeepsMemoryCanonical : Prop :=
  ∀ s t : State, Memory.wf s.mem = true → step s = .next t → Memory.wf t.mem = true

/-- The reset state's memory has the canonical form (log 9). -/
def Obligations.ResetMemoryIsCanonical : Prop := Memory.wf State.reset.mem = true

/-- Two canonical memories that read the same everywhere are the same (log 9), so that comparing states compares memories. -/
def Obligations.CanonicalMemoriesAreEqual : Prop :=
  ∀ m k : Memory, Memory.wf m = true → Memory.wf k = true → (∀ addr : Addr, m.read addr.toNat = k.read addr.toNat) → m = k

/-- Every function `MEM_INIT` from addresses to bytes (R6) has a canonical memory that reads as it, so the boot parameter that stands for it
as plain data (log 9) leaves none out. -/
def Obligations.EveryMemInitHasMemory : Prop :=
  ∀ f : Addr → Byte, ∃ m : Memory, Memory.wf m = true ∧ ∀ addr : Addr, m.read addr.toNat = f addr

/-! ## Runs -/

/-- R20 (D19, log 16) and R23 (d): along a run the output stream only grows, by at most a byte a step, and the configuration stays. -/
def Obligations.RunExtendsOutput : Prop :=
  ∀ (n : Nat) (s t : State), runSteps n s = .next t → (∃ bytes, t.out = s.out ++ bytes ∧ bytes.length ≤ n) ∧ t.cfg = s.cfg

/-- R113: a `JMP` or `JR` to its own address runs for ever, for every `JR_BASE` (D5, log 5; exact target D1, log 13), and changes
nothing. -/
def Obligations.SelfJumpRunsForever : Prop :=
  ∀ (n : Nat) (s : State) (rel16 : Addr), s.run = .running →
    fetch s = .instr (.jmp s.pc) ∨ (fetch s = .instr (.jr rel16) ∧ relativeTarget s rel16 = s.pc) → runSteps n s = .next s

/-! ## Reset -/

/-- R105 to R107 for every value of the parameters (D7, D8; logs 7 to 9): the registers, every byte of memory, PC from the vector as
loaded (D17), reached exactly (D1, log 13), no output, RUNNING. -/
def Obligations.BootFollowsResetSequence : Prop :=
  ∀ (p : BootParams) (image : List Byte), image.length ≤ 32768 →
    ∃ s, boot p image = .ok s ∧ s.a = p.resetA ∧ s.b = p.resetB ∧ s.r = p.resetR ∧ s.sp = p.resetSP ∧
      s.run = .running ∧ s.out = [] ∧ s.cfg = p.cfg ∧
      (∀ (i : Nat) (h : i < image.length), s.read8 (BitVec.ofNat 16 (0x8000 + i)) = image[i]) ∧
      (∀ addr : Addr, addr.toNat < 0x8000 ∨ 0x8000 + image.length ≤ addr.toNat → s.read8 addr = Memory.read p.memInit addr.toNat) ∧
      s.pc.toNat = (s.read8 0xFFFD).toNat * 256 + (s.read8 0xFFFC).toNat

/-- R106 (D9, log 12): exactly the images of more than 32768 bytes are refused. -/
def Obligations.BootRefusesLongImages : Prop :=
  ∀ (p : BootParams) (image : List Byte), boot p image = .error .imageTooLong ↔ 32768 < image.length

/-- The boot sequence leaves memory canonical when `MEM_INIT` is written so (log 9). -/
def Obligations.BootKeepsMemoryCanonical : Prop :=
  ∀ (p : BootParams) (image : List Byte) (s : State), bootParamsWf p = true → boot p image = .ok s → Memory.wf s.mem = true

/-- The model's choice of reset state (logs 2 to 5 and 7 to 10): the boot of the empty image with the spec's default parameters. That PC
is exactly the vector, read after the load, is D1 (log 13) and D17. -/
def Obligations.ResetIsBootOfEmptyImage : Prop :=
  boot defaultBoot [] = .ok State.reset ∧ State.reset.run = .running ∧ State.reset.out = [] ∧
    State.reset.pc = State.reset.read16 resetVector

/-- R56, R106, R57: in the machine booted with an assembled program as its image, the fetch at each instruction's address gives that
instruction. That 0x0B and 0x0C are always two bytes is D11 (log 18). -/
def Obligations.AssembledProgramIsFetched : Prop :=
  ∀ (p : BootParams) (prog : List Instr) (s : State), boot p (assemble prog) = .ok s →
    ∀ (k : Nat) (h : k < prog.length),
      instructionAddress prog (k + 1) = instructionAddress prog k + prog[k].length ∧
      fetch { s with pc := BitVec.ofNat 16 (instructionAddress prog k) } = .instr prog[k]

/-! ## What a run depends on -/

/-- R110, one step: two states alike in everything supplied so far are alike after a step that reads only what was supplied. What the
unknown-opcode event leaves, and that its vector is read at the event, is D10 and D17 (log 14). -/
def Obligations.SuppliedStateDecidesStep : Prop :=
  ∀ (k : Supplied) (s t u : State), k.Agree s t → k.allowsStep s = true → step s = .next u →
    ∃ v, step t = .next v ∧ (k.afterStep s).Agree u v

/-- R110: a run that reads only what its image or the program itself supplied does not depend on `RESET_A`, `RESET_B`, `RESET_R`,
`RESET_SP` or `MEM_INIT` (D7, D8; logs 7 to 9): same PC, output, run state and exit code, step for step. What the unknown-opcode event
leaves, and that its vector is read at the event, is D10 and D17 (log 14). -/
def Obligations.DisciplinedRunIgnoresOpenParameters : Prop :=
  ∀ (p q : BootParams) (image : List Byte) (s t u : State) (n : Nat), p.cfg = q.cfg → 32766 ≤ image.length →
    boot p image = .ok s → boot q image = .ok t → (suppliedByImage image.length).allowsRun n s = true →
    runSteps n s = .next u → ∃ v, runSteps n t = .next v ∧ v.pc = u.pc ∧ v.run = u.run ∧ v.out = u.out
end

