-- ==== Sys2Proof/Laws/State.lean ====
section
/-! SUPPORT. One lemma per field per update of State, true by rfl. -/

namespace Sys2Proof.Machine

@[simp] theorem setX_A_a (s : State) (v : Byte) : (s.setX .A v).a = v := rfl
@[simp] theorem setX_A_b (s : State) (v : Byte) : (s.setX .A v).b = s.b := rfl
@[simp] theorem setX_A_r (s : State) (v : Byte) : (s.setX .A v).r = s.r := rfl
@[simp] theorem setX_A_pc (s : State) (v : Byte) : (s.setX .A v).pc = s.pc := rfl
@[simp] theorem setX_A_sp (s : State) (v : Byte) : (s.setX .A v).sp = s.sp := rfl
@[simp] theorem setX_A_mem (s : State) (v : Byte) : (s.setX .A v).mem = s.mem := rfl
@[simp] theorem setX_A_run (s : State) (v : Byte) : (s.setX .A v).run = s.run := rfl
@[simp] theorem setX_A_out (s : State) (v : Byte) : (s.setX .A v).out = s.out := rfl
@[simp] theorem setX_A_cfg (s : State) (v : Byte) : (s.setX .A v).cfg = s.cfg := rfl

@[simp] theorem setX_B_a (s : State) (v : Byte) : (s.setX .B v).a = s.a := rfl
@[simp] theorem setX_B_b (s : State) (v : Byte) : (s.setX .B v).b = v := rfl
@[simp] theorem setX_B_r (s : State) (v : Byte) : (s.setX .B v).r = s.r := rfl
@[simp] theorem setX_B_pc (s : State) (v : Byte) : (s.setX .B v).pc = s.pc := rfl
@[simp] theorem setX_B_sp (s : State) (v : Byte) : (s.setX .B v).sp = s.sp := rfl
@[simp] theorem setX_B_mem (s : State) (v : Byte) : (s.setX .B v).mem = s.mem := rfl
@[simp] theorem setX_B_run (s : State) (v : Byte) : (s.setX .B v).run = s.run := rfl
@[simp] theorem setX_B_out (s : State) (v : Byte) : (s.setX .B v).out = s.out := rfl
@[simp] theorem setX_B_cfg (s : State) (v : Byte) : (s.setX .B v).cfg = s.cfg := rfl

@[simp] theorem setR_a (s : State) (v : Byte) : (s.setR v).a = s.a := rfl
@[simp] theorem setR_b (s : State) (v : Byte) : (s.setR v).b = s.b := rfl
@[simp] theorem setR_r (s : State) (v : Byte) : (s.setR v).r = v := rfl
@[simp] theorem setR_pc (s : State) (v : Byte) : (s.setR v).pc = s.pc := rfl
@[simp] theorem setR_sp (s : State) (v : Byte) : (s.setR v).sp = s.sp := rfl
@[simp] theorem setR_mem (s : State) (v : Byte) : (s.setR v).mem = s.mem := rfl
@[simp] theorem setR_run (s : State) (v : Byte) : (s.setR v).run = s.run := rfl
@[simp] theorem setR_out (s : State) (v : Byte) : (s.setR v).out = s.out := rfl
@[simp] theorem setR_cfg (s : State) (v : Byte) : (s.setR v).cfg = s.cfg := rfl

@[simp] theorem setSP_a (s : State) (v : Addr) : (s.setSP v).a = s.a := rfl
@[simp] theorem setSP_b (s : State) (v : Addr) : (s.setSP v).b = s.b := rfl
@[simp] theorem setSP_r (s : State) (v : Addr) : (s.setSP v).r = s.r := rfl
@[simp] theorem setSP_pc (s : State) (v : Addr) : (s.setSP v).pc = s.pc := rfl
@[simp] theorem setSP_sp (s : State) (v : Addr) : (s.setSP v).sp = v := rfl
@[simp] theorem setSP_mem (s : State) (v : Addr) : (s.setSP v).mem = s.mem := rfl
@[simp] theorem setSP_run (s : State) (v : Addr) : (s.setSP v).run = s.run := rfl
@[simp] theorem setSP_out (s : State) (v : Addr) : (s.setSP v).out = s.out := rfl
@[simp] theorem setSP_cfg (s : State) (v : Addr) : (s.setSP v).cfg = s.cfg := rfl

@[simp] theorem jump_a (s : State) (v : Addr) : (s.jump v).a = s.a := rfl
@[simp] theorem jump_b (s : State) (v : Addr) : (s.jump v).b = s.b := rfl
@[simp] theorem jump_r (s : State) (v : Addr) : (s.jump v).r = s.r := rfl
@[simp] theorem jump_pc (s : State) (v : Addr) : (s.jump v).pc = v := rfl
@[simp] theorem jump_sp (s : State) (v : Addr) : (s.jump v).sp = s.sp := rfl
@[simp] theorem jump_mem (s : State) (v : Addr) : (s.jump v).mem = s.mem := rfl
@[simp] theorem jump_run (s : State) (v : Addr) : (s.jump v).run = s.run := rfl
@[simp] theorem jump_out (s : State) (v : Addr) : (s.jump v).out = s.out := rfl
@[simp] theorem jump_cfg (s : State) (v : Addr) : (s.jump v).cfg = s.cfg := rfl

@[simp] theorem advance_a (s : State) (n : Nat) : (s.advance n).a = s.a := rfl
@[simp] theorem advance_b (s : State) (n : Nat) : (s.advance n).b = s.b := rfl
@[simp] theorem advance_r (s : State) (n : Nat) : (s.advance n).r = s.r := rfl
@[simp] theorem advance_pc (s : State) (n : Nat) : (s.advance n).pc = s.pc + BitVec.ofNat 16 n := rfl
@[simp] theorem advance_sp (s : State) (n : Nat) : (s.advance n).sp = s.sp := rfl
@[simp] theorem advance_mem (s : State) (n : Nat) : (s.advance n).mem = s.mem := rfl
@[simp] theorem advance_run (s : State) (n : Nat) : (s.advance n).run = s.run := rfl
@[simp] theorem advance_out (s : State) (n : Nat) : (s.advance n).out = s.out := rfl
@[simp] theorem advance_cfg (s : State) (n : Nat) : (s.advance n).cfg = s.cfg := rfl

@[simp] theorem write8_a (s : State) (x : Addr) (v : Byte) : (s.write8 x v).a = s.a := rfl
@[simp] theorem write8_b (s : State) (x : Addr) (v : Byte) : (s.write8 x v).b = s.b := rfl
@[simp] theorem write8_r (s : State) (x : Addr) (v : Byte) : (s.write8 x v).r = s.r := rfl
@[simp] theorem write8_pc (s : State) (x : Addr) (v : Byte) : (s.write8 x v).pc = s.pc := rfl
@[simp] theorem write8_sp (s : State) (x : Addr) (v : Byte) : (s.write8 x v).sp = s.sp := rfl
@[simp] theorem write8_mem (s : State) (x : Addr) (v : Byte) : (s.write8 x v).mem = s.mem.write x.toNat v := rfl
@[simp] theorem write8_run (s : State) (x : Addr) (v : Byte) : (s.write8 x v).run = s.run := rfl
@[simp] theorem write8_out (s : State) (x : Addr) (v : Byte) : (s.write8 x v).out = s.out := rfl
@[simp] theorem write8_cfg (s : State) (x : Addr) (v : Byte) : (s.write8 x v).cfg = s.cfg := rfl

@[simp] theorem output_a (s : State) (v : Byte) : (output v s).a = s.a := rfl
@[simp] theorem output_b (s : State) (v : Byte) : (output v s).b = s.b := rfl
@[simp] theorem output_r (s : State) (v : Byte) : (output v s).r = s.r := rfl
@[simp] theorem output_pc (s : State) (v : Byte) : (output v s).pc = s.pc := rfl
@[simp] theorem output_sp (s : State) (v : Byte) : (output v s).sp = s.sp := rfl
@[simp] theorem output_mem (s : State) (v : Byte) : (output v s).mem = s.mem := rfl
@[simp] theorem output_run (s : State) (v : Byte) : (output v s).run = s.run := rfl
@[simp] theorem output_out (s : State) (v : Byte) : (output v s).out = s.out ++ [v] := rfl
@[simp] theorem output_cfg (s : State) (v : Byte) : (output v s).cfg = s.cfg := rfl

@[simp] theorem halt_a (s : State) (v : Byte) : (halt v s).a = s.a := rfl
@[simp] theorem halt_b (s : State) (v : Byte) : (halt v s).b = s.b := rfl
@[simp] theorem halt_r (s : State) (v : Byte) : (halt v s).r = s.r := rfl
@[simp] theorem halt_pc (s : State) (v : Byte) : (halt v s).pc = s.pc := rfl
@[simp] theorem halt_sp (s : State) (v : Byte) : (halt v s).sp = s.sp := rfl
@[simp] theorem halt_mem (s : State) (v : Byte) : (halt v s).mem = s.mem := rfl
@[simp] theorem halt_run (s : State) (v : Byte) : (halt v s).run = .halted v := rfl
@[simp] theorem halt_out (s : State) (v : Byte) : (halt v s).out = s.out := rfl
@[simp] theorem halt_cfg (s : State) (v : Byte) : (halt v s).cfg = s.cfg := rfl

@[simp] theorem push8_a (s : State) (v : Byte) : (push8 v s).a = s.a := rfl
@[simp] theorem push8_b (s : State) (v : Byte) : (push8 v s).b = s.b := rfl
@[simp] theorem push8_r (s : State) (v : Byte) : (push8 v s).r = s.r := rfl
@[simp] theorem push8_pc (s : State) (v : Byte) : (push8 v s).pc = s.pc := rfl
@[simp] theorem push8_sp (s : State) (v : Byte) : (push8 v s).sp = s.sp + 1 := rfl
@[simp] theorem push8_mem (s : State) (v : Byte) : (push8 v s).mem = s.mem.write (pushAddress s).toNat v := rfl
@[simp] theorem push8_run (s : State) (v : Byte) : (push8 v s).run = s.run := rfl
@[simp] theorem push8_out (s : State) (v : Byte) : (push8 v s).out = s.out := rfl
@[simp] theorem push8_cfg (s : State) (v : Byte) : (push8 v s).cfg = s.cfg := rfl

@[simp] theorem pop8_snd_a (s : State) : (pop8 s).2.a = s.a := rfl
@[simp] theorem pop8_snd_b (s : State) : (pop8 s).2.b = s.b := rfl
@[simp] theorem pop8_snd_r (s : State) : (pop8 s).2.r = s.r := rfl
@[simp] theorem pop8_snd_pc (s : State) : (pop8 s).2.pc = s.pc := rfl
@[simp] theorem pop8_snd_sp (s : State) : (pop8 s).2.sp = s.sp - 1 := rfl
@[simp] theorem pop8_snd_mem (s : State) : (pop8 s).2.mem = s.mem := rfl
@[simp] theorem pop8_snd_run (s : State) : (pop8 s).2.run = s.run := rfl
@[simp] theorem pop8_snd_out (s : State) : (pop8 s).2.out = s.out := rfl
@[simp] theorem pop8_snd_cfg (s : State) : (pop8 s).2.cfg = s.cfg := rfl

@[simp] theorem raiseUnknownOpcode_a (s : State) (op : Byte) : (raiseUnknownOpcode op s).a = s.a := rfl
@[simp] theorem raiseUnknownOpcode_b (s : State) (op : Byte) : (raiseUnknownOpcode op s).b = s.b := rfl
@[simp] theorem raiseUnknownOpcode_r (s : State) (op : Byte) : (raiseUnknownOpcode op s).r = s.r := rfl
@[simp] theorem raiseUnknownOpcode_pc (s : State) (op : Byte) : (raiseUnknownOpcode op s).pc = s.read16 nmiVector := rfl
@[simp] theorem raiseUnknownOpcode_sp (s : State) (op : Byte) : (raiseUnknownOpcode op s).sp = s.sp := rfl
@[simp] theorem raiseUnknownOpcode_mem (s : State) (op : Byte) : (raiseUnknownOpcode op s).mem = s.mem := rfl
@[simp] theorem raiseUnknownOpcode_run (s : State) (op : Byte) : (raiseUnknownOpcode op s).run = s.run := rfl
@[simp] theorem raiseUnknownOpcode_out (s : State) (op : Byte) : (raiseUnknownOpcode op s).out = s.out := rfl
@[simp] theorem raiseUnknownOpcode_cfg (s : State) (op : Byte) : (raiseUnknownOpcode op s).cfg = s.cfg := rfl

@[simp] theorem x_A (s : State) : s.x .A = s.a := rfl
@[simp] theorem x_B (s : State) : s.x .B = s.b := rfl
@[simp] theorem pop8_fst (s : State) : (pop8 s).1 = s.read8 (popAddress s) := rfl

@[simp] theorem setX_A_read8 (s : State) (v : Byte) (addr : Addr) : (s.setX .A v).read8 addr = s.read8 addr := rfl
@[simp] theorem setX_B_read8 (s : State) (v : Byte) (addr : Addr) : (s.setX .B v).read8 addr = s.read8 addr := rfl
@[simp] theorem setR_read8 (s : State) (v : Byte) (addr : Addr) : (s.setR v).read8 addr = s.read8 addr := rfl
@[simp] theorem setSP_read8 (s : State) (v : Addr) (addr : Addr) : (s.setSP v).read8 addr = s.read8 addr := rfl
@[simp] theorem jump_read8 (s : State) (v : Addr) (addr : Addr) : (s.jump v).read8 addr = s.read8 addr := rfl
@[simp] theorem advance_read8 (s : State) (n : Nat) (addr : Addr) : (s.advance n).read8 addr = s.read8 addr := rfl
@[simp] theorem output_read8 (s : State) (v : Byte) (addr : Addr) : (output v s).read8 addr = s.read8 addr := rfl
@[simp] theorem halt_read8 (s : State) (v : Byte) (addr : Addr) : (halt v s).read8 addr = s.read8 addr := rfl
@[simp] theorem pop8_snd_read8 (s : State) (addr : Addr) : (pop8 s).2.read8 addr = s.read8 addr := rfl
@[simp] theorem raiseUnknownOpcode_read8 (s : State) (op : Byte) (addr : Addr) : (raiseUnknownOpcode op s).read8 addr = s.read8 addr := rfl

end Sys2Proof.Machine
end

