-- ==== Sys2Proof/Laws/Memory.lean ====
section
/-! SUPPORT. The laws of memory: a read after a write, and the canonical form kept by every operation. -/

namespace Sys2Proof.Machine

/-! ## Reading -/

theorem Memory.read_cons (c : Host.Cell) (m : Memory) (addr : Nat) :
    Memory.read (c :: m) addr = if c.1 = addr then c.2 else Memory.read m addr := rfl

theorem Memory.read_erase_same (m : Memory) (addr : Nat) : (Memory.erase m addr).read addr = unlistedByte := by
  induction m with
  | nil => rfl
  | cons c m ih =>
    by_cases h : c.1 = addr
    · simpa [Memory.erase, h] using ih
    · simpa [Memory.erase, h, Memory.read_cons] using ih

theorem Memory.read_erase_other (m : Memory) {addr other : Nat} (h : other ≠ addr) :
    (Memory.erase m addr).read other = Memory.read m other := by
  induction m with
  | nil => rfl
  | cons c m ih =>
    by_cases hc : c.1 = addr
    · have : c.1 ≠ other := fun e => h (e.symm.trans hc)
      simpa [Memory.erase, hc, Memory.read_cons, Ne.symm h] using ih
    · by_cases ho : c.1 = other
      · simp [Memory.erase, Memory.read_cons, ho, h]
      · simpa [Memory.erase, hc, Memory.read_cons, ho] using ih

theorem Memory.read_insert_same (m : Memory) (addr : Nat) (v : Byte) (h : ∀ c ∈ m, c.1 ≠ addr) :
    (Memory.insert (addr, v) m).read addr = v := by
  induction m with
  | nil => simp [Memory.insert, Memory.read_cons]
  | cons d m ih =>
    have hd : d.1 ≠ addr := h d (by simp)
    by_cases hlt : addr < d.1
    · simp [Memory.insert, hlt, Memory.read_cons]
    · simpa [Memory.insert, hlt, Memory.read_cons, hd] using ih fun c hc => h c (by simp [hc])

theorem Memory.read_insert_other (m : Memory) {addr other : Nat} (v : Byte) (h : other ≠ addr) :
    (Memory.insert (addr, v) m).read other = Memory.read m other := by
  induction m with
  | nil => simp [Memory.insert, Memory.read_cons, Ne.symm h]
  | cons d m ih =>
    by_cases hlt : addr < d.1
    · simp [Memory.insert, hlt, Memory.read_cons, Ne.symm h]
    · simp [Memory.insert, hlt, Memory.read_cons, ih]

/-- A read of the address just written gives the value written. -/
@[simp] theorem Memory.read_write_same (m : Memory) (addr : Nat) (v : Byte) : (Memory.write m addr v).read addr = v := by
  unfold Memory.write
  split
  · rw [Memory.read_erase_same]; exact Eq.symm ‹_›
  · exact Memory.read_insert_same _ _ _ fun c hc => by simpa using (List.mem_filter.mp hc).2

/-- A write leaves every other address alone. -/
theorem Memory.read_write_other (m : Memory) {addr other : Nat} (v : Byte) (h : other ≠ addr) :
    (Memory.write m addr v).read other = Memory.read m other := by
  unfold Memory.write
  split
  · exact Memory.read_erase_other m h
  · rw [Memory.read_insert_other _ _ h, Memory.read_erase_other m h]

/-- Everything a write does to a read. -/
theorem Memory.read_write (m : Memory) (addr other : Nat) (v : Byte) :
    (Memory.write m addr v).read other = if other = addr then v else Memory.read m other := by
  split
  · subst other; exact Memory.read_write_same m addr v
  · exact Memory.read_write_other m v ‹_›

/-- Everything `MemWrite` does to a read of one byte. -/
theorem write8_read8 (s : State) (addr other : Addr) (v : Byte) :
    (s.write8 addr v).read8 other = if other = addr then v else s.read8 other := by
  simp only [State.read8, State.write8, Memory.read_write, BitVec.toNat_inj]

/-! ## The canonical form -/

theorem Memory.above_iff (lo : Nat) (m : Memory) : Memory.above lo m = true ↔ ∀ c ∈ m, lo < c.1 := by
  simp [Memory.above]

theorem Memory.wf_cons (c : Host.Cell) (m : Memory) :
    Memory.wf (c :: m) = true ↔ (∀ d ∈ m, c.1 < d.1) ∧ c.1 < memSize ∧ c.2 ≠ unlistedByte ∧ Memory.wf m = true := by
  simp [Memory.wf, Memory.above_iff, and_assoc]

theorem Memory.erase_wf {m : Memory} (addr : Nat) (h : Memory.wf m = true) : Memory.wf (m.erase addr) = true := by
  induction m with
  | nil => rfl
  | cons c m ih =>
    obtain ⟨habove, hsize, hval, hm⟩ := (Memory.wf_cons c m).mp h
    by_cases hc : c.1 = addr
    · simpa [Memory.erase, hc] using ih hm
    · have : Memory.erase (c :: m) addr = c :: Memory.erase m addr := by simp [Memory.erase, hc]
      rw [this, Memory.wf_cons]
      exact ⟨fun d hd => habove d (List.mem_filter.mp hd).1, hsize, hval, ih hm⟩

theorem Memory.mem_insert {c d : Host.Cell} {m : Memory} (h : d ∈ Memory.insert c m) : d = c ∨ d ∈ m := by
  induction m with
  | nil => simpa [Memory.insert] using h
  | cons e m ih =>
    by_cases hlt : c.1 < e.1
    · simpa [Memory.insert, hlt] using h
    · rcases (by simpa [Memory.insert, hlt] using h : d = e ∨ d ∈ Memory.insert c m) with rfl | h
      · simp
      · rcases ih h with rfl | h
        · simp
        · simp [h]

theorem Memory.insert_wf {c : Host.Cell} {m : Memory} (hm : Memory.wf m = true) (hsize : c.1 < memSize)
    (hval : c.2 ≠ unlistedByte) (hnew : ∀ d ∈ m, d.1 ≠ c.1) : Memory.wf (Memory.insert c m) = true := by
  induction m with
  | nil => rw [Memory.insert, Memory.wf_cons]; simp [hsize, hval, Memory.wf]
  | cons e m ih =>
    obtain ⟨habove, hes, hev, hm'⟩ := (Memory.wf_cons e m).mp hm
    by_cases hlt : c.1 < e.1
    · simp only [Memory.insert, hlt, if_true]
      refine (Memory.wf_cons _ _).mpr ⟨fun d hd => ?_, hsize, hval, hm⟩
      rcases List.mem_cons.mp hd with rfl | hd
      · exact hlt
      · exact hlt.trans (habove d hd)
    · simp only [Memory.insert, hlt, if_false]
      refine (Memory.wf_cons _ _).mpr ⟨fun d hd => ?_, hes, hev, ih hm' fun d hd => hnew d (by simp [hd])⟩
      rcases Memory.mem_insert hd with rfl | hd
      · have := hnew e (by simp); omega
      · exact habove d hd

/-- A write inside the address space keeps the canonical form. -/
theorem Memory.write_wf {m : Memory} {addr : Nat} (v : Byte) (h : Memory.wf m = true) (ha : addr < memSize) :
    Memory.wf (m.write addr v) = true := by
  unfold Memory.write
  split
  · exact Memory.erase_wf addr h
  · exact Memory.insert_wf (Memory.erase_wf addr h) ha ‹_› fun d hd => by simpa using (List.mem_filter.mp hd).2

/-- `MemWrite` keeps the canonical form. -/
theorem write8_wf {s : State} (addr : Addr) (v : Byte) (h : Memory.wf s.mem = true) :
    Memory.wf (s.write8 addr v).mem = true :=
  Memory.write_wf v h addr.isLt

/-- Loading bytes inside the address space keeps the canonical form. -/
theorem loadBytes_wf {m : Memory} {addr : Nat} {vs : List Byte} (h : Memory.wf m = true) (ha : addr + vs.length ≤ memSize) :
    Memory.wf (loadBytes m addr vs) = true := by
  induction vs generalizing m addr with
  | nil => exact h
  | cons v vs ih =>
    simp only [List.length_cons] at ha
    exact ih (Memory.write_wf v h (by omega)) (by omega)

/-- The memory of the reset state has the canonical form. -/
theorem reset_mem_wf : Memory.wf State.reset.mem = true := rfl

end Sys2Proof.Machine
end

