-- ==== Sys2Proof/Laws/Boot.lean ====
section
/-! SUPPORT. What loading bytes does to memory. -/

namespace Sys2Proof.Machine

theorem loadBytes_append (m : Memory) (addr : Nat) (us vs : List Byte) :
    loadBytes m addr (us ++ vs) = loadBytes (loadBytes m addr us) (addr + us.length) vs := by
  induction us generalizing m addr with
  | nil => rfl
  | cons u us ih =>
    simp only [List.cons_append, loadBytes, ih, List.length_cons]
    congr 1
    omega

/-- Loading bytes that are what an unlisted address reads as, above every listed address, changes nothing. -/
theorem loadBytes_unlisted {m : Memory} {addr : Nat} (n : Nat) (h : ∀ c ∈ m, c.1 < addr) :
    loadBytes m addr (List.replicate n unlistedByte) = m := by
  induction n generalizing addr with
  | zero => rfl
  | succ n ih =>
    have hm : m.write addr unlistedByte = m := by
      simp only [Memory.write, if_true, Memory.erase]
      exact List.filter_eq_self.mpr fun c hc => by simpa using (h c hc).ne
    rw [List.replicate_succ, loadBytes, hm]
    exact ih fun c hc => (h c hc).trans (Nat.lt_succ_self _)

/-- The bytes just loaded are what their addresses read as; every other address is left alone. -/
theorem loadBytes_read (m : Memory) (addr other : Nat) (vs : List Byte) :
    (loadBytes m addr vs).read other =
      if h : addr ≤ other ∧ other < addr + vs.length then vs[other - addr]'(by omega) else m.read other := by
  induction vs generalizing m addr with
  | nil => rw [dif_neg (by simp only [List.length_nil]; omega)]; rfl
  | cons v vs ih =>
    rw [loadBytes, ih, Memory.read_write]
    simp only [List.length_cons]
    by_cases hx : other = addr
    · subst hx; simp
    · by_cases h1 : addr ≤ other ∧ other < addr + (vs.length + 1)
      · rw [dif_pos h1, dif_pos (by omega)]
        have : other - addr = (other - (addr + 1)) + 1 := by omega
        simp [this]
      · rw [dif_neg h1, dif_neg (by omega), if_neg hx]

end Sys2Proof.Machine
end

