-- ==== Sys2Proof/Laws/Encoding.lean ====
section
/-! SUPPORT. Lemmas on decoding: an instruction that has no operand bytes does not depend on them (R50). -/

namespace Sys2Proof

open Sys2Proof.Machine (fetch State)

/-- A format F0 instruction ignores `b1` and `b2`, a format F8 instruction ignores `b2`, an unknown opcode both (R50). -/
theorem decode_ignores (b0 b1 b2 : Byte) :
    decode b0 b1 b2 =
      match opcodeFormat b0 with
      | none => .unknown b0
      | some .F0 => decode b0 0 0
      | some .F8 => decode b0 b1 0
      | some .F16 => decode b0 b1 b2 := by
  unfold decode opcodeFormat
  split <;> rfl

/-- `fetch` is `decode` of the three bytes at PC (R50, R52). -/
theorem fetch_eq_decode (s : State) : fetch s = decode (s.read8 s.pc) (s.read8 (s.pc + 1)) (s.read8 (s.pc + 2)) := by
  rw [decode_ignores]
  rfl

end Sys2Proof
end

