-- ==== Sys2Proof/Laws/Ops.lean ====
section
/-! SUPPORT. For each shared operation, once, everything it does. -/

namespace Sys2Proof.Machine

/-- Everything `Push8` does (R35): every byte but the pushed one reads as before, and only SP and that byte change. -/
theorem push8_spec (v : Byte) (s : State) :
    (∀ addr, (push8 v s).read8 addr = if addr = pushAddress s then v else s.read8 addr) ∧
      push8 v s = { s with mem := (push8 v s).mem, sp := s.sp + 1 } :=
  ⟨fun addr => write8_read8 s (pushAddress s) addr v, rfl⟩

/-- The second push lands one address above the first (R35). -/
theorem pushAddress_push8 (v : Byte) (s : State) : pushAddress (push8 v s) = pushAddress s + 1 := by
  unfold pushAddress
  cases h : s.cfg.pushPostInc <;> simp [h]

/-- The byte a push stores and the bytes the other way round: the first and the second byte `Push16` pushes (R37). -/
theorem push16_eq (v : Addr) (s : State) :
    push16 v s = push8 (if s.cfg.retLowFirst then highByte v else lowByte v)
      (push8 (if s.cfg.retLowFirst then lowByte v else highByte v) s) := by
  unfold push16
  split <;> rfl

/-- Everything `Push16` does (R37): two bytes, the second one address above the first, and SP + 2. -/
theorem push16_spec (v : Addr) (s : State) :
    (∀ addr, (push16 v s).read8 addr =
      if addr = pushAddress s + 1 then (if s.cfg.retLowFirst then highByte v else lowByte v)
      else if addr = pushAddress s then (if s.cfg.retLowFirst then lowByte v else highByte v)
      else s.read8 addr) ∧
      push16 v s = { s with mem := (push16 v s).mem, sp := s.sp + 1 + 1 } := by
  refine ⟨fun addr => ?_, ?_⟩
  · rw [push16_eq, (push8_spec _ _).1, pushAddress_push8, (push8_spec _ _).1]
  · rw [push16_eq]; rfl

/-- The second pop reads one address below the first (R36). -/
theorem popAddress_pop8 (s : State) : popAddress (pop8 s).2 = popAddress s - 1 := by
  unfold popAddress
  cases h : s.cfg.pushPostInc <;> simp [h]

/-- Everything `Pop16` does (R38): two bytes read, the second one address below the first, and SP - 2. -/
theorem pop16_spec (s : State) :
    pop16 s = (if s.cfg.retLowFirst then joinBytes (s.read8 (popAddress s)) (s.read8 (popAddress s - 1))
        else joinBytes (s.read8 (popAddress s - 1)) (s.read8 (popAddress s)),
      s.setSP (s.sp - 1 - 1)) := by
  have h : (pop8 (pop8 s).2).1 = s.read8 (popAddress s - 1) := by rw [pop8_fst, popAddress_pop8, pop8_snd_read8]
  unfold pop16
  simp only [h, pop8_fst]
  split <;> rfl

/-- `Push8` and `Push16` keep memory's canonical form. -/
theorem push8_wf {s : State} (v : Byte) (h : Memory.wf s.mem = true) : Memory.wf (push8 v s).mem = true :=
  write8_wf (pushAddress s) v h

theorem push16_wf {s : State} (v : Addr) (h : Memory.wf s.mem = true) : Memory.wf (push16 v s).mem = true := by
  rw [push16_eq]
  exact push8_wf _ (push8_wf _ h)

/-- Everything taking the exception does (R93, R94): PC, and nothing else. -/
theorem raiseUnknownOpcode_spec (op : Byte) (s : State) :
    raiseUnknownOpcode op s = { s with pc := joinBytes (s.read8 0xFFFF#16) (s.read8 0xFFFE#16) } := rfl

end Sys2Proof.Machine
end

