-- ==== Sys2Proof/Laws/PerInstr.lean ====
section
/-! SUPPORT. Facts about every instruction as syntax, one lemma per constructor. -/

namespace Sys2Proof.Laws.EncodedLength

/-- The encoding begins with the opcode byte of R47, that byte alone gives the format (R49), and the encoding is as long as the format (R46). -/
def Statement (i : Instr) : Prop :=
  (encode i).head? = some i.opcode ∧ opcodeFormat i.opcode = some i.format ∧ (encode i).length = i.length

theorem nop : Statement .nop := ⟨rfl, rfl, rfl⟩
theorem add (imm8 : Byte) : Statement (.add imm8) := ⟨rfl, rfl, rfl⟩
theorem outa : Statement .outa := ⟨rfl, rfl, rfl⟩
theorem jmp (addr16 : Addr) : Statement (.jmp addr16) := ⟨rfl, rfl, rfl⟩
theorem jz (addr16 : Addr) : Statement (.jz addr16) := ⟨rfl, rfl, rfl⟩
theorem sub (imm8 : Byte) : Statement (.sub imm8) := ⟨rfl, rfl, rfl⟩
theorem jr (rel16 : Addr) : Statement (.jr rel16) := ⟨rfl, rfl, rfl⟩
theorem call (addr16 : Addr) : Statement (.call addr16) := ⟨rfl, rfl, rfl⟩
theorem setsp (addr16 : Addr) : Statement (.setsp addr16) := ⟨rfl, rfl, rfl⟩
theorem tba : Statement .tba := ⟨rfl, rfl, rfl⟩
theorem tab : Statement .tab := ⟨rfl, rfl, rfl⟩
theorem ldaImm (imm8 : Byte) : Statement (.ldaImm imm8) := ⟨rfl, rfl, rfl⟩
theorem ldbImm (imm8 : Byte) : Statement (.ldbImm imm8) := ⟨rfl, rfl, rfl⟩
theorem ldaMem (addr16 : Addr) : Statement (.ldaMem addr16) := ⟨rfl, rfl, rfl⟩
theorem ldbMem (addr16 : Addr) : Statement (.ldbMem addr16) := ⟨rfl, rfl, rfl⟩
theorem hlt : Statement .hlt := ⟨rfl, rfl, rfl⟩
theorem sta (addr16 : Addr) : Statement (.sta addr16) := ⟨rfl, rfl, rfl⟩
theorem stb (addr16 : Addr) : Statement (.stb addr16) := ⟨rfl, rfl, rfl⟩
theorem pha : Statement .pha := ⟨rfl, rfl, rfl⟩
theorem pla : Statement .pla := ⟨rfl, rfl, rfl⟩
theorem rts : Statement .rts := ⟨rfl, rfl, rfl⟩
theorem cmp (imm8 : Byte) : Statement (.cmp imm8) := ⟨rfl, rfl, rfl⟩

end Sys2Proof.Laws.EncodedLength
end

