-- ==== Sys2Proof/Laws/Step.lean ====
section
/-! SUPPORT. What a step and a run can do, said once. -/

namespace Sys2Proof.Machine

/-- Everything a step that gives a next state did: it ran the fetched instruction, or took the unknown-opcode vector (R9, R52). -/
theorem step_cases {s t : State} (h : step s = .next t) :
    s.run = .running ∧
      ((∃ i, fetch s = .instr i ∧ exec i s = .next t) ∨ (∃ op, fetch s = .unknown op ∧ t = raiseUnknownOpcode op s)) := by
  unfold step at h
  split at h
  · cases h
  · refine ⟨‹_›, ?_⟩
    split at h
    · exact .inl ⟨_, ‹_›, h⟩
    · exact .inr ⟨_, ‹_›, (Host.Outcome.next.inj h).symm⟩

/-- A run of `n + 1` steps is a step and a run of `n`. -/
theorem runSteps_succ {n : Nat} {s u : State} (h : runSteps (n + 1) s = .next u) :
    ∃ t, step s = .next t ∧ runSteps n t = .next u := by
  unfold runSteps at h
  split at h
  · exact ⟨_, ‹_›, h⟩
  · cases h
  · cases h

/-- The runs of Safety.lean are the host's runs. -/
theorem runSteps_eq_run (n : Nat) : runSteps n = Sys2Proof.core.run n := by
  induction n with
  | zero => rfl
  | succ n ih =>
    funext s
    have hrun : ∀ (M : Host.Core) (k : Nat) (u : M.State), M.run (k + 1) u =
        (match M.step u with | .next v => M.run k v | .fault f => .fault f | .refused r => .refused r) := fun _ _ _ => rfl
    refine Eq.trans ?_ (hrun Sys2Proof.core n s).symm
    rw [← ih, show Sys2Proof.core.step s = step s from rfl]
    unfold runSteps
    cases step s <;> rfl

end Sys2Proof.Machine
end

