-- ==== Sys2Proof/Tests/Slice0.lean ====
section
/-! SUPPORT. Small tests. Expected values come from `95_test_vectors.md` (S, E1, V, Q, RS rows, named at each test), and one witness for the
hypotheses of each obligation that has any. -/

namespace Sys2Proof.Tests

open Sys2Proof Sys2Proof.Machine

/-! ## Helpers -/

/-- A RUNNING machine with the default parameters, `code` at PC and `cells` elsewhere in memory. -/
def machine (a b r : Byte) (sp pc : Addr) (code : List Byte) (cells : Memory) : State :=
  { State.reset with
    a := a, b := b, r := r, sp := sp, pc := pc
    mem := loadBytes (cells.foldl (fun m c => m.write c.1 c.2) []) pc.toNat code }

/-- Whether an outcome is a next state with a property. -/
def gives (o : Host.Outcome State Fault Refusal) (p : State → Bool) : Bool :=
  match o with
  | .next t => p t
  | _ => false

/-- The registers in the order `A B R SP PC` of the vectors. -/
def regs (s : State) : Byte × Byte × Byte × Addr × Addr := (s.a, s.b, s.r, s.sp, s.pc)

/-! ## Decoding: table E1, one word for each constructor -/

theorem test_decode_arithmetic :
    decodeTableWord 16 0x0201 = some (.add 0x02) ∧ decodeTableWord 16 0x0505 = some (.sub 0x05) ∧
      decodeTableWord 16 0x0516 = some (.cmp 0x05) := by decide

theorem test_decode_loads :
    decodeTableWord 16 0x7A0B = some (.ldaImm 0x7A) ∧ decodeTableWord 16 0x0A0C = some (.ldbImm 0x0A) ∧
      decodeTableWord 24 0x00100D = some (.ldaMem 0x0010) ∧ decodeTableWord 24 0x12340E = some (.ldbMem 0x1234) := by decide

theorem test_decode_stores_transfers :
    decodeTableWord 24 0x900110 = some (.sta 0x9001) ∧ decodeTableWord 24 0x7FFF11 = some (.stb 0x7FFF) ∧
      decodeTableWord 8 0x09 = some .tba ∧ decodeTableWord 8 0x0A = some .tab := by decide

theorem test_decode_control :
    decodeTableWord 24 0x800003 = some (.jmp 0x8000) ∧ decodeTableWord 24 0x800A04 = some (.jz 0x800A) ∧
      decodeTableWord 24 0xFFFB06 = some (.jr 0xFFFB) ∧ decodeTableWord 24 0x801007 = some (.call 0x8010) ∧
      decodeTableWord 8 0x14 = some .rts := by decide

theorem test_decode_stack_system :
    decodeTableWord 24 0x900008 = some (.setsp 0x9000) ∧ decodeTableWord 8 0x12 = some .pha ∧
      decodeTableWord 8 0x13 = some .pla ∧ decodeTableWord 8 0x00 = some .nop ∧ decodeTableWord 8 0x02 = some .outa ∧
      decodeTableWord 8 0x0F = some .hlt := by decide

/-- E1's corner cases: unknown bytes; an operand byte is no opcode. -/
theorem test_decode_corners :
    decode 0x15 0 0 = .unknown 0x15 ∧ decode 0x17 0 0 = .unknown 0x17 ∧ decode 0xFF 0 0 = .unknown 0xFF ∧
      decode 0x16 0x17 0 = .instr (.cmp 0x17) ∧ decode 0x0B 0x0F 0 = .instr (.ldaImm 0x0F) := by decide

/-- S1 and S2, and R58's treatment of an unknown byte. -/
theorem test_encode_and_listing :
    encode .nop = [0x00] ∧ encode (.jmp 0x8000) = [0x03, 0x00, 0x80] ∧
      listing [0x0B, 0x2A, 0x15, 0x0F] = [.instr (.ldaImm 0x2A), .unknown 0x15, .instr .hlt] ∧
      listing [0x00, 0x03, 0x00] = [.instr .nop, .truncated [0x03, 0x00]] := by decide

/-- The "text" column of E1, and R62's choice of opcode for a load line. -/
theorem test_assembly_text :
    asmText (.ldaImm 0x7A) = "LDA #$7A" ∧ asmText (.ldaMem 0x0010) = "LDA $0010" ∧ asmText (.jr 0xFFFB) = "JR $FFFB" ∧
      asmText .outa = "OUTA" ∧ ldaLine (.label 0x1234) = .ldaMem 0x1234 ∧ ldbLine (.value 0x0A) = .ldbImm 0x0A := by decide

/-! ## Well-formedness: one ill-formed term for each check -/

theorem test_wf_unknown_opcode : RawInstr.wf { opcode := 0x15, operand := none } = false := by decide
theorem test_wf_opcode_too_large : RawInstr.wf { opcode := 0x100, operand := none } = false := by decide
theorem test_wf_operand_missing : RawInstr.wf { opcode := 0x01, operand := none } = false := by decide
theorem test_wf_operand_not_wanted : RawInstr.wf { opcode := 0x00, operand := some 0 } = false := by decide
theorem test_wf_immediate_too_large : RawInstr.wf { opcode := 0x01, operand := some 0x100 } = false := by decide
theorem test_wf_address_too_large : RawInstr.wf { opcode := 0x03, operand := some 0x10000 } = false := by decide
theorem test_wf_accepts : RawInstr.wf { opcode := 0x03, operand := some 0xFFFF } = true := by decide

/-- RS4: an image of 32769 bytes. -/
theorem test_wf_image_too_long : imageWf (List.replicate 32769 0x00) = false := by
  unfold imageWf
  rw [List.length_replicate]
  decide

theorem test_wf_memory :
    Memory.wf [(1, 5), (0, 5)] = false ∧ Memory.wf [(1, 5), (1, 6)] = false ∧ Memory.wf [(1, 0)] = false ∧
      Memory.wf [(65536, 1)] = false ∧ bootParamsWf { defaultBoot with memInit := [(2, 0)] } = false := by decide

/-! ## One step of each instruction -/

/-- V71: PC wraps past the top of memory. -/
theorem test_nop : gives (step (machine 1 2 3 4 0xFFFF [0x00] [])) (fun t => regs t = (1, 2, 3, 4, 0x0000)) = true := by decide

/-- V15: opcode at FFFF, operand at 0000; FF + 01 wraps to zero, A stays. -/
theorem test_add :
    gives (step (machine 0xFF 0 3 0 0xFFFF [0x01] [(0, 0x01)])) (fun t => regs t = (0xFF, 0, 0x00, 0, 0x0001)) = true := by decide

/-- V4: the largest operands. -/
theorem test_add_carry_lost :
    gives (step (machine 0xFF 0 0 0 0x8000 [0x01, 0xFF] [])) (fun t => regs t = (0xFF, 0, 0xFE, 0, 0x8002)) = true := by decide

/-- V8: the borrow is lost. -/
theorem test_sub : gives (step (machine 0 0 0 0 0x8000 [0x05, 0x01] [])) (fun t => regs t = (0, 0, 0xFF, 0, 0x8002)) = true := by decide

/-- V13: A below the immediate. -/
theorem test_cmp : gives (step (machine 5 0 0 0 0x8000 [0x16, 0x06] [])) (fun t => regs t = (5, 0, 0xFF, 0, 0x8002)) = true := by decide

/-- V20: a load does not touch R. -/
theorem test_ldaImm : gives (step (machine 1 0 7 0 0x8000 [0x0B, 0x2A] [])) (fun t => regs t = (0x2A, 0, 7, 0, 0x8002)) = true := by decide

/-- V22. -/
theorem test_ldbImm : gives (step (machine 0 1 0 0 0x8000 [0x0C, 0x0A] [])) (fun t => regs t = (0, 0x0A, 0, 0, 0x8002)) = true := by decide

/-- V24: reads its own opcode byte. -/
theorem test_ldaMem :
    gives (step (machine 0 0 0 0 0x8000 [0x0D, 0x00, 0x80] [])) (fun t => regs t = (0x0D, 0, 0, 0, 0x8003)) = true := by decide

/-- V26. -/
theorem test_ldbMem :
    gives (step (machine 0 0 0 0 0x8000 [0x0E, 0x11, 0x00] [(0x11, 0x7A)])) (fun t => regs t = (0, 0x7A, 0, 0, 0x8003)) = true := by decide

/-- V33: the store overwrites its own opcode; the executing instruction is not affected. -/
theorem test_sta :
    gives (step (machine 0 0 0 0 0x8000 [0x10, 0x00, 0x80] [])) (fun t => t.pc = 0x8003 ∧ t.mem = [(0x8002, 0x80)]) = true := by decide

/-- V30. -/
theorem test_stb :
    gives (step (machine 0 0x0A 0 0 0x8000 [0x11, 0xFF, 0x7F] [])) (fun t => t.pc = 0x8003 ∧ t.read8 0x7FFF = 0x0A) = true := by decide

/-- V31. -/
theorem test_tba : gives (step (machine 0 0x7A 0 0 0x8000 [0x09] [])) (fun t => regs t = (0x7A, 0x7A, 0, 0, 0x8001)) = true := by decide

/-- V32. -/
theorem test_tab : gives (step (machine 0x2A 0 0 0 0x8000 [0x0A] [])) (fun t => regs t = (0x2A, 0x2A, 0, 0, 0x8001)) = true := by decide

/-- V40: target with low byte 00, reached exactly. -/
theorem test_jmp : gives (step (machine 1 2 3 4 0x8000 [0x03, 0x00, 0x80] [])) (fun t => regs t = (1, 2, 3, 4, 0x8000)) = true := by decide

/-- V42: taken. -/
theorem test_jz_taken : gives (step (machine 1 0 0 0 0x8004 [0x04, 0x0A, 0x80] [])) (fun t => t.pc = 0x800A) = true := by decide

/-- V44: R decides, A = 00 does not matter. -/
theorem test_jz_not_taken : gives (step (machine 0 0 1 0 0x8004 [0x04, 0x0A, 0x80] [])) (fun t => t.pc = 0x8007) = true := by decide

/-- V50: wraps downward below 0000. -/
theorem test_jr : gives (step (machine 0 0 0 0 0x0001 [0x06, 0xFE, 0xFF] [])) (fun t => t.pc = 0xFFFF) = true := by decide

/-- Q9: `JR_BASE` = 3. -/
theorem test_jr_base_three :
    gives (step { machine 0 0 0 0 0x800F [0x06, 0x04, 0x00] [] with cfg := { defaultConfig with jrBase := .three } })
      (fun t => t.pc = 0x8016) = true := by decide

/-- V57: the pushes overwrite the `CALL`'s own operand bytes. -/
theorem test_call :
    gives (step (machine 0 0 0 0x8001 0x8000 [0x07, 0x01, 0x80] []))
      (fun t => regs t = (0, 0, 0, 0x8003, 0x8001) ∧ t.read8 0x8001 = 0x03 ∧ t.read8 0x8002 = 0x80) = true := by decide

/-- Q3: `RET_LOW_FIRST` = false. -/
theorem test_call_high_first :
    gives (step { machine 0 0 0 0x9000 0x8008 [0x07, 0x10, 0x80] [] with cfg := { defaultConfig with retLowFirst := false } })
      (fun t => regs t = (0, 0, 0, 0x9002, 0x8010) ∧ t.read8 0x9000 = 0x80 ∧ t.read8 0x9001 = 0x0B) = true := by decide

/-- V55: the pops wrap below 0000. -/
theorem test_rts :
    gives (step (machine 0 0 0 0x0001 0x8000 [0x14] [(0, 0x12), (0xFFFF, 0x34)]))
      (fun t => regs t = (0, 0, 0, 0xFFFF, 0x1234)) = true := by decide

/-- Q2: `RET_ADJ` = 1. -/
theorem test_rts_adjusted :
    gives (step { machine 0 0 0 0x9002 0x801A [0x14] [(0x9000, 0x0A), (0x9001, 0x80)] with
        cfg := { defaultConfig with retAdj := .one } }) (fun t => regs t = (0, 0, 0, 0x9000, 0x800B)) = true := by decide

/-- V61: any value is accepted. -/
theorem test_setsp :
    gives (step (machine 0 0 0 0x1234 0x8000 [0x08, 0xFF, 0xFF] [])) (fun t => regs t = (0, 0, 0, 0xFFFF, 0x8003)) = true := by decide

/-- V63: SP wraps upward. -/
theorem test_pha :
    gives (step (machine 0x55 0 0 0xFFFF 0x8000 [0x12] []))
      (fun t => regs t = (0x55, 0, 0, 0x0000, 0x8001) ∧ t.read8 0xFFFF = 0x55) = true := by decide

/-- Q5: `PUSH_POST_INC` = false. -/
theorem test_pha_pre_increment :
    gives (step { machine 0x7A 0 0 0x9000 0x8000 [0x12] [] with cfg := { defaultConfig with pushPostInc := false } })
      (fun t => t.sp = 0x9001 ∧ t.read8 0x9001 = 0x7A ∧ t.read8 0x9000 = 0x00) = true := by decide

/-- V65: SP wraps downward. -/
theorem test_pla :
    gives (step (machine 1 0 0 0x0000 0x8000 [0x13] [(0xFFFF, 0x99)])) (fun t => regs t = (0x99, 0, 0, 0xFFFF, 0x8001)) = true := by decide

/-- Q6: `PUSH_POST_INC` = false. -/
theorem test_pla_post_decrement :
    gives (step { machine 0 0 0 0x9001 0x8000 [0x13] [(0x9001, 0x7A)] with cfg := { defaultConfig with pushPostInc := false } })
      (fun t => regs t = (0x7A, 0, 0, 0x9000, 0x8001)) = true := by decide

/-- V72. -/
theorem test_outa : gives (step (machine 0x2A 0 0 0 0x8000 [0x02] [])) (fun t => t.out = [0x2A] ∧ t.pc = 0x8001) = true := by decide

/-- V74: PC stays on the `HLT`; and after it there is no step. -/
theorem test_hlt :
    gives (step (machine 0x2A 3 4 0x9000 0x8000 [0x0F] []))
      (fun t => regs t = (0x2A, 3, 4, 0x9000, 0x8000) ∧ t.run = .halted 42 ∧ ¬ gives (step t) (fun _ => true)) = true := by decide

/-- V80: the unknown-opcode vector; nothing else changes. -/
theorem test_unknown_opcode :
    gives (step (machine 1 2 3 0x9000 0x8000 [0xFF] [(0xFFFF, 0x90)]))
      (fun t => t = { machine 1 2 3 0x9000 0x8000 [0xFF] [(0xFFFF, 0x90)] with pc := 0x9000 }) = true := by decide

/-- V81: the reserved 0x15. -/
theorem test_reserved_opcode :
    gives (step (machine 0 0 0 0 0x8000 [0x15] [(0xFFFE, 0x34), (0xFFFF, 0x12)])) (fun t => t.pc = 0x1234) = true := by decide

/-! ## Reset -/

/-- RS2: the empty image with the default parameters. -/
theorem test_reset : regs State.reset = (0, 0, 0, 0, 0) ∧ State.reset.run = .running ∧ State.reset.out = [] := by decide

/-- Q12's parameter, and the vector of RS5 given by `MEM_INIT`: `boot` of P6's image. -/
theorem test_boot :
    (match boot { defaultBoot with memInit := [(0xFFFC, 0x34), (0xFFFD, 0x12)], resetA := 0x11 } [0x0B, 0x2A, 0x0F] with
      | .ok s => decide (s.pc = 0x1234 ∧ s.a = 0x11 ∧ s.read8 0x8001 = 0x2A)
      | .error _ => false) = true := by decide

/-- The word the host places after reset runs as the first instruction. -/
theorem test_fetch_word :
    gives (step (State.reset.withFetchWord 16 0x7A0B)) (fun t => regs t = (0x7A, 0, 0, 0, 0x0002)) = true := by decide

/-! ## Witnesses: states and operands that meet the hypotheses of the obligations -/

theorem witness_LengthIsFunctionOfFirstByte :
    opcodeFormat 0x15 = none ∧ opcodeFormat 0x17 = none ∧ opcodeFormat 0xFF = none := by decide

theorem witness_EncoderAcceptsExactlyWellFormed :
    RawInstr.toInstr { opcode := 0x03, operand := some 0xFFFF } = some (.jmp 0xFFFF) ∧
      RawInstr.toInstr { opcode := 0x16, operand := some 0xFF } = some (.cmp 0xFF) ∧
      RawInstr.toInstr { opcode := 0x00, operand := none } = some .nop := by decide

theorem witness_OperandsAreAssembledFromBytes : decode 0x07 0x10 0x80 = .instr (.call 0x8010) ∧ decode 0x05 0xFF 0x00 = .instr (.sub 0xFF) := by decide

theorem witness_EncodeOfDecodedBytes : decode 0xFE 0 0 = .unknown 0xFE ∧ decode 0x14 0x99 0x98 = .instr .rts := by decide

theorem witness_StepRunsDecodedInstruction :
    let s := machine 0 0 0 0 0xFFFE [0x03, 0x34] [(0, 0x12)]
    s.run = .running ∧ decode (s.read8 s.pc) (s.read8 (s.pc + 1)) (s.read8 (s.pc + 2)) = .instr (.jmp 0x1234) := by decide

theorem witness_StoredEncodingIsRun :
    let s := machine 0 0 0 0 0xFFFE [0x03, 0x34] [(0, 0x12)]
    s.run = .running ∧ ∀ (k : Fin 3), s.read8 (s.pc + BitVec.ofNat 16 k) = (encode (.jmp 0x1234))[k.val]'(by decide +revert) := by decide

theorem witness_FetchWordIsRun : decodeTableWord 24 0xFFFFFF14 = some .rts ∧ decodeTableWord 8 0xFF0F = some .hlt := by decide

theorem witness_CallTargetIsReadBeforePushes :
    let s := machine 0 0 0 0x8001 0x8000 [0x07, 0x01, 0x80] []
    s.run = .running ∧ s.read8 s.pc = 0x07 := by decide

theorem witness_StoredByteIsFetchedNext :
    let s := machine 0x0F 0 0 0 0x8000 [0x10, 0x03, 0x80] []
    ∃ t, exec (.sta (s.pc + 3)) s = .next t ∧ fetch t = .instr .hlt := ⟨_, rfl, by decide⟩

theorem witness_ThreeKindsOfOutcome :
    (machine 0 0 0 0 0x8000 [0x00] []).run = .running ∧ { State.reset with run := .halted 0 }.run = .halted 0 := by decide

theorem witness_OnlyWritersWrite : ∃ t, exec .tab (machine 7 0 0 0 0 [] []) = .next t ∧ writesA .tab = false ∧ writesR .tab = false ∧
    writesB .pla = false ∧ movesSP .tab = false := ⟨_, rfl, by decide⟩

theorem witness_ResultRegisterIsHidden :
    (∃ t, exec (.add 1) (machine 0xFF 0 5 0 0 [] []) = .next t ∧ t.r = 0) ∧
      (∃ t, exec (.sub 1) (machine 0 0 5 0 0 [] []) = .next t ∧ t.r = 0xFF) ∧
      (∃ t, exec .pla (machine 0 0 5 0 0 [] []) = .next t ∧ t.r = 5) ∧
      ((3 : Byte) = 0 ↔ (machine 0 0 5 0 0 [] []).r = 0) ∧
      ∃ t, exec (.jz 0x10) (machine 0 0 5 0 0 [] []) = .next t ∧ t.pc = 3 :=
  ⟨⟨_, rfl, by decide⟩, ⟨_, rfl, by decide⟩, ⟨_, rfl, by decide⟩, by decide, ⟨_, rfl, by decide⟩⟩

theorem witness_BranchAfterArithmetic :
    (∃ t u, exec (.add 1) (machine 0xFF 0 5 0 0 [] []) = .next t ∧ (0x10 : Addr) ≠ t.pc + 3 ∧ exec (.jz 0x10) t = .next u ∧ u.pc = 0x10) ∧
      ∃ t u, exec (.cmp 1) (machine 0xFF 0 5 0 0 [] []) = .next t ∧ (0x10 : Addr) ≠ t.pc + 3 ∧ exec (.jz 0x10) t = .next u ∧ u.pc = 5 :=
  ⟨⟨_, _, rfl, by decide, rfl, by decide⟩, ⟨_, _, rfl, by decide, rfl, by decide⟩⟩

theorem witness_JzBranchesOnZeroResult : (machine 0 0 0 0 0 [] []).r = 0 ∧ (machine 0 0 0xFF 0 0 [] []).r ≠ 0 := by decide

/-- The state after `CALL` itself meets what a balanced subroutine leaves; SP wraps inside the `CALL` (V53). -/
theorem witness_MatchedReturnComesBack :
    ∃ t, exec (.call 0x9000) (machine 0 0 0 0xFFFF 0x8000 [] []) = .next t ∧ t.sp = 0x0001 ∧
      gives (exec .rts t) (fun v => v.pc = 0x8003 ∧ v.sp = 0xFFFF) = true := ⟨_, rfl, by decide, by decide⟩

theorem witness_PullUndoesPush :
    ∃ t, exec .pha (machine 0x55 0 0 0xFFFF 0x8000 [] []) = .next t ∧ t.sp = 0x0000 ∧
      gives (exec .pla t) (fun v => v.a = 0x55 ∧ v.sp = 0xFFFF) = true := ⟨_, rfl, by decide, by decide⟩

theorem witness_RunEndsOnlyByHlt :
    let s := machine 0x2A 0 0 0 0x8000 [0x02, 0x0F] []
    s.result = none ∧ gives (runSteps 2 s) (fun t => t.result = some ([0x2A], 0x2A)) = true := by decide

theorem witness_UnknownOpcodeCause :
    (machine 0 0 0 0 0x8000 [0x17] []).run = .running ∧ fetch (machine 0 0 0 0 0x8000 [0x15] []) = .unknown 0x15 ∧
      (machine 9 0 0 0 0x4000 [0x15, 0x33] []).read8 0x4000 = (machine 0 0 0 0 0x8000 [0x15] []).read8 0x8000 := by decide

theorem witness_UnknownOpcodeTakesVector :
    let s := machine 0 0 0 0 0xFFFF [0x17] []
    s.run = .running ∧ (s.read8 s.pc = 0x15 ∨ 0x17 ≤ (s.read8 s.pc).toNat) := by decide

theorem witness_UnknownOpcodeRecordsNothing :
    let s := machine 0 0 0 0 0x8000 [0x15, 0xFF] []
    isUnknownOpcode (s.read8 0x8000) = true ∧ isUnknownOpcode (s.read8 0x8001) = true ∧ isUnknownOpcode 0x17 = true ∧
      s.pc ≠ 0xFFFE ∧ s.pc ≠ 0xFFFF ∧ gives (step s) (fun _ => true) = true := by decide

/-- V82: the vector points at the unknown byte itself. -/
theorem witness_UnknownOpcodeAtVectorLoops :
    let s := machine 0 0 0 0 0x8000 [0x17] [(0xFFFF, 0x80)]
    s.run = .running ∧ isUnknownOpcode (s.read8 s.pc) = true ∧ isUnknownOpcode (s.read8 (s.read16 nmiVector)) = true := by decide

/-- An address above the address space is reduced: 0x18000 is 0x8000. -/
theorem witness_MemWriteChangesOneByte :
    (machine 0 0 0 0 0x8000 [] []).pc.toNat = 0x18000 % 65536 ∧ (0x8001 : Addr).toNat ≠ 0x18000 % 65536 := by decide

theorem witness_StepKeepsMemoryCanonical :
    let s := machine 0 0 0 0x8000 0x8000 [0x12] [(0xFFFF, 1)]
    Memory.wf s.mem = true ∧ gives (step s) (fun t => t.mem = [(0xFFFF, 1)]) = true := by decide

theorem witness_CanonicalMemoriesAreEqual : Memory.wf [(0, 1), (0xFFFF, 2)] = true := by decide

theorem witness_RunExtendsOutput :
    gives (runSteps 2 (machine 7 0 0 0 0x8000 [0x02, 0x02] [])) (fun t => t.out = [7, 7]) = true := by decide

theorem witness_SelfJumpRunsForever :
    let s := machine 0 0 0 0 0x8000 [0x03, 0x00, 0x80] []
    let t := { machine 0 0 0 0 0x8000 [0x06, 0xFD, 0xFF] [] with cfg := { defaultConfig with jrBase := .three } }
    s.run = .running ∧ fetch s = .instr (.jmp s.pc) ∧ t.run = .running ∧ fetch t = .instr (.jr 0xFFFD) ∧ relativeTarget t 0xFFFD = t.pc := by
  decide

/-- The boundary lengths of an image: none, one byte, and 32768 bytes. -/
theorem witness_BootFollowsResetSequence :
    ([] : List Byte).length ≤ 32768 ∧ [(0x0F : Byte)].length ≤ 32768 ∧ (List.replicate 32768 (0x0F : Byte)).length ≤ 32768 ∧
      (0xFFFF : Addr).toNat ≥ 0x8000 + [(0x0F : Byte)].length ∧ (0x7FFF : Addr).toNat < 0x8000 := by
  refine ⟨by decide, by decide, ?_, by decide, by decide⟩
  rw [List.length_replicate]

theorem witness_BootKeepsMemoryCanonical :
    bootParamsWf { defaultBoot with memInit := [(3, 1)] } = true ∧
      ∃ s, boot { defaultBoot with memInit := [(3, 1)] } [0x0F] = .ok s := ⟨by decide, _, rfl⟩

theorem witness_AssembledProgramIsFetched :
    ∃ s, boot defaultBoot (assemble [.ldaImm 0x2A, .hlt]) = .ok s ∧ 1 < [Instr.ldaImm 0x2A, .hlt].length := ⟨_, rfl, by decide⟩

/-- Two states that differ in A, B, R and SP only, none of them supplied, at a `SETSP`. -/
theorem witness_SuppliedStateDecidesStep :
    let k : Supplied := { a := false, b := false, r := false, sp := false, mem := fun _ => true }
    let s := machine 0 0 0 0 0x8000 [0x08, 0x00, 0x90] []
    k.Agree s { s with a := 1, b := 2, r := 3, sp := 4 } ∧ k.allowsStep s = true ∧ gives (step s) (fun t => t.sp = 0x9000) = true := by
  intro k s
  refine ⟨⟨rfl, rfl, rfl, rfl, fun h => ?_, fun h => ?_, fun h => ?_, fun h => ?_, fun _ _ => rfl⟩, by decide, by decide⟩ <;> cases h

/-- The shortest image that supplies the reset vector (RS3): `LDA #$2A`, `HLT` at 0x8000, the vector 0x8000 at its end. -/
def shortestImage : List Byte := [0x0B, 0x2A, 0x0F] ++ (List.replicate 32761 unlistedByte ++ [0x00, 0x80])

theorem shortestImage_length : shortestImage.length = 32766 := by
  rw [shortestImage, List.length_append, List.length_append, List.length_replicate]
  rfl

theorem shortestImage_loaded :
    loadBytes [] 0x8000 shortestImage = [(0x8000, 0x0B), (0x8001, 0x2A), (0x8002, 0x0F), (0xFFFD, 0x80)] := by
  rw [shortestImage, loadBytes_append, loadBytes_append, loadBytes_unlisted, List.length_replicate]
  · decide
  · decide

/-- The state a boot of that image leaves, for any values of the registers. -/
def bootedShortest (a b r : Byte) (sp : Addr) : State :=
  { a := a, b := b, r := r, sp := sp, pc := 0x8000, run := .running, out := [], cfg := defaultConfig
    mem := [(0x8000, 0x0B), (0x8001, 0x2A), (0x8002, 0x0F), (0xFFFD, 0x80)] }

theorem boot_shortestImage (a b r : Byte) (sp : Addr) :
    boot { defaultBoot with resetA := a, resetB := b, resetR := r, resetSP := sp } shortestImage = .ok (bootedShortest a b r sp) := by
  have hwf : imageWf shortestImage = true := by
    rw [imageWf, shortestImage_length]
    rfl
  have hpc : joinBytes (Memory.read [(0x8000, 0x0B), (0x8001, 0x2A), (0x8002, 0x0F), (0xFFFD, 0x80)] (resetVector + 1).toNat)
      (Memory.read [(0x8000, 0x0B), (0x8001, 0x2A), (0x8002, 0x0F), (0xFFFD, 0x80)] resetVector.toNat) = 0x8000 := by decide
  simp only [boot, hwf, if_true, defaultBoot, loadBase, shortestImage_loaded]
  simp only [State.read16, State.read8, State.jump, hpc, bootedShortest]

theorem witness_DisciplinedRunIgnoresOpenParameters :
    32766 ≤ shortestImage.length ∧
      boot defaultBoot shortestImage = .ok (bootedShortest 0 0 0 0) ∧
      boot { defaultBoot with resetA := 9, resetB := 8, resetR := 7, resetSP := 6 } shortestImage = .ok (bootedShortest 9 8 7 6) ∧
      (suppliedByImage shortestImage.length).allowsRun 2 (bootedShortest 0 0 0 0) = true ∧
      gives (runSteps 2 (bootedShortest 0 0 0 0)) (fun u => u.run = .halted 0x2A) = true := by
  rw [shortestImage_length]
  exact ⟨le_rfl, boot_shortestImage 0 0 0 0, boot_shortestImage 9 8 7 6, by decide, by decide⟩

end Sys2Proof.Tests
end

/-! # What a step answers (R9) and the memories of every MEM_INIT (R6)

The run state through each operation and each instruction, the equations of `step`, and the memory of a function from addresses to
bytes, built by loading all its bytes from address 0 on. -/

namespace Sys2Proof.Machine

/-! ## The run state -/

@[simp] theorem push16_run (v : Addr) (s : State) : (push16 v s).run = s.run := by
  rw [(push16_spec v s).2]

@[simp] theorem pop16_snd_run (s : State) : (pop16 s).2.run = s.run := by
  rw [pop16_spec, setSP_run]

/-- No instruction but `HLT` stops the machine, and none of them faults or is refused (R9). -/
theorem exec_keeps_run {i : Instr} (hi : i ≠ .hlt) (s : State) : ∃ t, exec i s = .next t ∧ t.run = s.run := by
  cases i with
  | hlt => exact absurd rfl hi
  | jz addr16 =>
    refine ⟨_, rfl, ?_⟩
    split <;> rfl
  | call addr16 => exact ⟨_, rfl, push16_run (returnAddress s) s⟩
  | rts => exact ⟨_, rfl, pop16_snd_run s⟩
  | _ => exact ⟨_, rfl, rfl⟩

/-- `HLT` always halts, with A as the exit code (R89). -/
theorem exec_hlt (s : State) : exec .hlt s = .next (halt s.a s) := rfl

/-! ## The equations of `step` -/

theorem step_of_instr {s : State} {i : Instr} (hrun : s.run = .running) (hf : fetch s = .instr i) : step s = exec i s := by
  simp only [step, hrun, hf]

theorem step_of_unknown {s : State} {op : Byte} (hrun : s.run = .running) (hf : fetch s = .unknown op) :
    step s = .next (raiseUnknownOpcode op s) := by
  simp only [step, hrun, hf]

theorem step_of_halted {s : State} {e : Byte} (hrun : s.run = .halted e) : step s = .refused .haltedHasNoStep := by
  simp only [step, hrun]

/-- Settles O13, by what the fetch answers: an unknown opcode, `HLT`, or another instruction. -/
theorem threeKindsOfOutcome : Obligations.ThreeKindsOfOutcome := by
  refine fun s => ⟨fun hrun => ?_, fun e hhalt t => ?_⟩
  · cases hf : fetch s with
    | unknown op => exact ⟨_, step_of_unknown hrun hf, .inr (.inl ⟨op, rfl, rfl, hrun⟩)⟩
    | instr i =>
      rw [step_of_instr hrun hf]
      by_cases hi : i = .hlt
      · subst hi
        exact ⟨_, exec_hlt s, .inr (.inr ⟨rfl, exec_hlt s, s.a, halt_run s s.a⟩)⟩
      · obtain ⟨t, hexec, hkeep⟩ := exec_keeps_run hi s
        exact ⟨t, hexec, .inl ⟨i, hi, rfl, hexec, hkeep.trans hrun⟩⟩
  · rw [step_of_halted hhalt]
    nofun

/-! ## The memory of a MEM_INIT function -/

/-- The bytes a function gives the addresses below `n`, in the order of the addresses. -/
def bytesBelow (f : Addr → Byte) (n : Nat) : List Byte := (List.range n).map fun k => f (BitVec.ofNat 16 k)

@[simp] theorem bytesBelow_length (f : Addr → Byte) (n : Nat) : (bytesBelow f n).length = n := by
  simp [bytesBelow]

theorem bytesBelow_getElem (f : Addr → Byte) {n k : Nat} (h : k < (bytesBelow f n).length) :
    (bytesBelow f n)[k] = f (BitVec.ofNat 16 k) := by
  simp [bytesBelow]

/-- The memory that reads as a function from addresses to bytes: all its bytes, loaded from address 0 on. -/
def memoryOf (f : Addr → Byte) : Memory := loadBytes [] 0 (bytesBelow f memSize)

theorem memoryOf_wf (f : Addr → Byte) : Memory.wf (memoryOf f) = true :=
  loadBytes_wf rfl (by rw [bytesBelow_length, Nat.zero_add])

theorem memoryOf_read (f : Addr → Byte) (addr : Addr) : (memoryOf f).read addr.toNat = f addr := by
  have hin : 0 ≤ addr.toNat ∧ addr.toNat < 0 + (bytesBelow f memSize).length := by
    rw [bytesBelow_length, Nat.zero_add]
    exact ⟨Nat.zero_le _, addr.isLt⟩
  rw [memoryOf, loadBytes_read, dif_pos hin, bytesBelow_getElem, Nat.sub_zero, BitVec.ofNat_toNat, BitVec.setWidth_eq]

/-- Settles O48: a function's own bytes, loaded in the order of their addresses, are its memory. -/
theorem everyMemInitHasMemory : Obligations.EveryMemInitHasMemory :=
  fun f => ⟨memoryOf f, memoryOf_wf f, memoryOf_read f⟩

end Sys2Proof.Machine

/-! # What an instruction changes (R10, R12, R15) and what a run appends (R20)

The state after an instruction, field by field, each field a table over the instructions as the model's `nextPC` is for PC; `exec` always
answers it (`exec_eq`). The frames, the hidden register and the output stream are read off the tables. -/

namespace Sys2Proof.Machine

/-! ## The state after an instruction -/

/-- A after an instruction (R10 "written by"). -/
def nextA : Instr → State → Byte
  | .tba, s => s.b
  | .ldaImm imm8, _ => immediate imm8
  | .ldaMem addr16, s => s.read8 (effectiveAddress addr16)
  | .pla, s => s.read8 (popAddress s)
  | _, s => s.a

/-- B after an instruction (R10 "written by"). -/
def nextB : Instr → State → Byte
  | .tab, s => s.a
  | .ldbImm imm8, _ => immediate imm8
  | .ldbMem addr16, s => s.read8 (effectiveAddress addr16)
  | _, s => s.b

/-- R after an instruction (R12). -/
def nextR : Instr → State → Byte
  | .add imm8, s => sumResult s.a (immediate imm8)
  | .sub imm8, s | .cmp imm8, s => differenceResult s.a (immediate imm8)
  | _, s => s.r

/-- SP after an instruction (R16). -/
def nextSP : Instr → State → Addr
  | .setsp addr16, _ => addr16
  | .pha, s => s.sp + 1
  | .pla, s => s.sp - 1
  | .call _, s => s.sp + 1 + 1
  | .rts, s => s.sp - 1 - 1
  | _, s => s.sp

/-- Memory after an instruction (R28). -/
def nextMem : Instr → State → Memory
  | .sta addr16, s => (s.write8 (effectiveAddress addr16) s.a).mem
  | .stb addr16, s => (s.write8 (effectiveAddress addr16) s.b).mem
  | .pha, s => (push8 s.a s).mem
  | .call _, s => (push16 (returnAddress s) s).mem
  | _, s => s.mem

/-- The run state after an instruction (R19). -/
def nextRun : Instr → State → RunState
  | .hlt, s => .halted s.a
  | _, s => s.run

/-- The output stream after an instruction (R20). -/
def nextOut : Instr → State → List Byte
  | .outa, s => s.out ++ [s.a]
  | _, s => s.out

/-- The state after an instruction, each field from its own table. -/
def nextState (i : Instr) (s : State) : State :=
  { a := nextA i s, b := nextB i s, r := nextR i s, pc := nextPC i s, sp := nextSP i s
    mem := nextMem i s, run := nextRun i s, out := nextOut i s, cfg := s.cfg }

/-- `JZ` goes where `nextPC` says and changes nothing else (R78). -/
theorem exec_jz (target : Addr) (s : State) : exec (.jz target) s = .next (s.jump (nextPC (.jz target) s)) := by
  show Host.Outcome.next (if (s.r == 0) = true then s.jump target else s.jump (s.pc + 3)) =
    .next (s.jump (if s.r = 0 then target else s.pc + 3))
  rw [apply_ite s.jump]
  simp only [beq_iff_eq]

/-- Every instruction answers the state of the tables. -/
theorem exec_eq (i : Instr) (s : State) : exec i s = .next (nextState i s) := by
  cases i with
  | jz target => exact exec_jz target s
  | call target =>
    show Host.Outcome.next ((push16 (returnAddress s) s).jump target) = _
    rw [(push16_spec (returnAddress s) s).2]
    rfl
  | rts =>
    show Host.Outcome.next ((pop16 s).2.jump (returnTarget s (pop16 s).1)) =
      .next ((s.setSP (s.sp - 1 - 1)).jump (returnTarget s (pop16 s).1))
    rw [pop16_spec]
  | _ => rfl

theorem eq_nextState {i : Instr} {s t : State} (h : exec i s = .next t) : t = nextState i s :=
  Host.Outcome.next.inj (h.symm.trans (exec_eq i s))

/-- Settles O16: the PC's table in the state after an instruction is `nextPC` itself. -/
theorem nextPCOfEveryInstruction : Obligations.NextPCOfEveryInstruction :=
  fun i s => ⟨nextState i s, exec_eq i s, rfl⟩

/-! ## The frame of every instruction -/

theorem nextA_of_not_writesA {i : Instr} (hw : writesA i = false) (s : State) : nextA i s = s.a := by
  cases i with
  | tba | ldaImm _ | ldaMem _ | pla => cases hw
  | _ => rfl

theorem nextB_of_not_writesB {i : Instr} (hw : writesB i = false) (s : State) : nextB i s = s.b := by
  cases i with
  | tab | ldbImm _ | ldbMem _ => cases hw
  | _ => rfl

theorem nextR_of_not_writesR {i : Instr} (hw : writesR i = false) (s : State) : nextR i s = s.r := by
  cases i with
  | add _ | sub _ | cmp _ => cases hw
  | _ => rfl

theorem nextSP_of_not_movesSP {i : Instr} (hw : movesSP i = false) (s : State) : nextSP i s = s.sp := by
  cases i with
  | call _ | setsp _ | pha | pla | rts => cases hw
  | _ => rfl

theorem nextOut_of_ne_outa {i : Instr} (hi : i ≠ .outa) (s : State) : nextOut i s = s.out := by
  cases i with
  | outa => exact absurd rfl hi
  | _ => rfl

theorem write8_sameBytesBut (s : State) (addr : Addr) (v : Byte) : SameBytesBut [addr] s (s.write8 addr v) := by
  intro other hother
  rw [write8_read8, if_neg (List.ne_of_not_mem_cons hother)]

theorem push16_sameBytesBut (s : State) (v : Addr) : SameBytesBut [pushAddress s, pushAddress s + 1] s (push16 v s) := by
  intro other hother
  simp only [List.mem_cons, List.not_mem_nil, or_false, not_or] at hother
  obtain ⟨hfirst, hsecond⟩ := hother
  rw [(push16_spec v s).1, if_neg hsecond, if_neg hfirst]

/-- An instruction changes the bytes it stores to, and no other (R28, R32). -/
theorem nextState_sameBytesBut (i : Instr) (s : State) : SameBytesBut (storedAddresses i s) s (nextState i s) := by
  cases i with
  | sta addr16 => exact write8_sameBytesBut s (effectiveAddress addr16) s.a
  | stb addr16 => exact write8_sameBytesBut s (effectiveAddress addr16) s.b
  | pha => exact write8_sameBytesBut s (pushAddress s) s.a
  | call _ => exact push16_sameBytesBut s (returnAddress s)
  | _ => exact fun _ _ => rfl

theorem nextRun_of_ne_hlt {i : Instr} (hi : i ≠ .hlt) (s : State) : nextRun i s = s.run := by
  obtain ⟨t, hexec, hrun⟩ := exec_keeps_run hi s
  rwa [eq_nextState hexec] at hrun

/-- Settles O17: one frame for each field of the state. -/
theorem onlyWritersWrite : Obligations.OnlyWritersWrite := by
  intro i s t hexec
  rw [eq_nextState hexec]
  exact ⟨(nextA_of_not_writesA · s), (nextB_of_not_writesB · s), (nextR_of_not_writesR · s), (nextSP_of_not_movesSP · s),
    nextState_sameBytesBut i s, (nextRun_of_ne_hlt · s), (nextOut_of_ne_outa · s), rfl⟩

/-! ## The hidden result register -/

theorem sumResult_toNat (a imm8 : Byte) : (sumResult a imm8).toNat = (a.toNat + imm8.toNat) % 256 :=
  BitVec.toNat_add a imm8

theorem differenceResult_toNat (a imm8 : Byte) : (differenceResult a imm8).toNat = (a.toNat + 256 - imm8.toNat) % 256 := by
  rw [differenceResult, BitVec.toNat_sub]
  have := imm8.isLt
  omega

theorem writesR_eq_false {i : Instr} (hi : ∀ v, i ≠ .add v ∧ i ≠ .sub v ∧ i ≠ .cmp v) : writesR i = false := by
  cases i with
  | add v => exact absurd rfl (hi v).1
  | sub v => exact absurd rfl (hi v).2.1
  | cmp v => exact absurd rfl (hi v).2.2
  | _ => rfl

@[simp] theorem push16_setR_mem (v : Addr) (s : State) (r : Byte) : (push16 v (s.setR r)).mem = (push16 v s).mem := by
  rw [push16_eq, push16_eq]
  rfl

@[simp] theorem pop16_setR_fst (s : State) (r : Byte) : (pop16 (s.setR r)).1 = (pop16 s).1 := by
  rw [pop16_spec, pop16_spec]
  rfl

/-- No instruction but `JZ` reads R: with another value there, only R can come out different (R12). -/
theorem nextState_setR {i : Instr} (hi : ∀ target, i ≠ .jz target) (s : State) (v : Byte) :
    (nextState i (s.setR v)).setR (nextState i s).r = nextState i s := by
  cases i with
  | jz target => exact absurd rfl (hi target)
  | call target =>
    have hmem : nextMem (.call target) (s.setR v) = nextMem (.call target) s := push16_setR_mem (returnAddress s) s v
    rw [nextState, hmem]
    rfl
  | rts =>
    have hpc : nextPC .rts (s.setR v) = nextPC .rts s := congrArg (returnTarget s) (pop16_setR_fst s v)
    rw [nextState, hpc]
    rfl
  | _ => rfl

/-- `JZ` sees of R only whether it is zero (R12, R78). -/
theorem nextState_jz_setR (target : Addr) {s : State} {v : Byte} (hv : v = 0 ↔ s.r = 0) :
    nextState (.jz target) (s.setR v) = (nextState (.jz target) s).setR v := by
  have hpc : nextPC (.jz target) (s.setR v) = nextPC (.jz target) s := if_congr hv rfl rfl
  rw [nextState, hpc]
  rfl

/-- Settles O18: R's table for what writes it, and the two lemmas above for what reads it. -/
theorem resultRegisterIsHidden : Obligations.ResultRegisterIsHidden := by
  refine ⟨fun v s t hexec => ?_, fun v s t hexec => ?_, fun i s t hi hexec => ?_, fun op s => raiseUnknownOpcode_r s op,
    fun i s t v hi hexec => ?_, fun target s t v hv hexec => ?_⟩
  · rw [eq_nextState hexec]
    exact sumResult_toNat s.a v
  · have hr : t.r = differenceResult s.a v := by
      obtain hsub | hcmp := hexec
      · rw [eq_nextState hsub]; rfl
      · rw [eq_nextState hcmp]; rfl
    rw [hr, differenceResult_toNat]
  · rw [eq_nextState hexec]
    exact nextR_of_not_writesR (writesR_eq_false hi) s
  · rw [eq_nextState hexec]
    exact ⟨nextState i (s.setR v), exec_eq i (s.setR v), nextState_setR hi s v⟩
  · rw [eq_nextState hexec]
    exact (exec_eq _ (s.setR v)).trans (congrArg _ (nextState_jz_setR target hv))

/-! ## Runs and the reset state -/

/-- A step appends at most one byte to the output stream and keeps the configuration (R20, R23 (d)). -/
theorem step_extends_out {s t : State} (h : step s = .next t) :
    (∃ bytes, t.out = s.out ++ bytes ∧ bytes.length ≤ 1) ∧ t.cfg = s.cfg := by
  obtain ⟨-, ⟨i, -, hexec⟩ | ⟨op, -, rfl⟩⟩ := step_cases h
  · rw [eq_nextState hexec]
    refine ⟨?_, rfl⟩
    by_cases hi : i = .outa
    · subst hi
      exact ⟨[s.a], rfl, le_rfl⟩
    · exact ⟨[], (nextOut_of_ne_outa hi s).trans (List.append_nil _).symm, Nat.zero_le 1⟩
  · exact ⟨⟨[], (List.append_nil _).symm, Nat.zero_le 1⟩, rfl⟩

/-- Settles O49, by induction on the number of steps. -/
theorem runExtendsOutput : Obligations.RunExtendsOutput := by
  intro n
  induction n with
  | zero =>
    intro s t hrun
    rw [← Host.Outcome.next.inj hrun]
    exact ⟨⟨[], (List.append_nil _).symm, le_rfl⟩, rfl⟩
  | succ n ih =>
    intro s u hrun
    obtain ⟨t, hstep, hrest⟩ := runSteps_succ hrun
    obtain ⟨⟨first, houtFirst, hlenFirst⟩, hcfgFirst⟩ := step_extends_out hstep
    obtain ⟨⟨rest, houtRest, hlenRest⟩, hcfgRest⟩ := ih t u hrest
    refine ⟨⟨first ++ rest, ?_, ?_⟩, hcfgRest.trans hcfgFirst⟩
    · rw [houtRest, houtFirst, List.append_assoc]
    · rw [List.length_append]
      omega

/-- Settles O46: the reset state lists no byte. -/
theorem resetMemoryIsCanonical : Obligations.ResetMemoryIsCanonical := reset_mem_wf

end Sys2Proof.Machine


/-! # Memory and the stack (R25, R32, R35, R36, R42, R44)

The canonical form through every step and what it determines, the fetch of a byte just written, the operand bytes of a `CALL`, and the
slot a pop reads after a push. The state after an instruction is `nextState`. -/

namespace Sys2Proof.Machine

/-! ## The canonical form through a step -/

/-- An instruction stores only through `MemWrite`, so it keeps the canonical form. -/
theorem nextMem_wf (i : Instr) {s : State} (hwf : Memory.wf s.mem = true) : Memory.wf (nextMem i s) = true := by
  cases i with
  | sta addr16 => exact write8_wf (effectiveAddress addr16) s.a hwf
  | stb addr16 => exact write8_wf (effectiveAddress addr16) s.b hwf
  | pha => exact push8_wf s.a hwf
  | call _ => exact push16_wf (returnAddress s) hwf
  | _ => exact hwf

/-- Settles O45: the step ran an instruction, or took the unknown-opcode vector, which stores nothing. -/
theorem stepKeepsMemoryCanonical : Obligations.StepKeepsMemoryCanonical := by
  intro s t hwf hstep
  obtain ⟨-, ⟨i, -, hexec⟩ | ⟨op, -, rfl⟩⟩ := step_cases hstep
  · rw [eq_nextState hexec]
    exact nextMem_wf i hwf
  · exact hwf

/-! ## A byte just written, read and fetched -/

theorem read8_write8_same (s : State) (addr : Addr) (v : Byte) : (s.write8 addr v).read8 addr = v := by
  rw [write8_read8, if_pos rfl]

theorem read8_write8_other (s : State) {addr other : Addr} (v : Byte) (h : other ≠ addr) :
    (s.write8 addr v).read8 other = s.read8 other := by
  rw [write8_read8, if_neg h]

/-- A fetch of a byte just written decodes it, as any byte of memory (R44). -/
theorem fetch_write8_pc (s : State) (v : Byte) :
    fetch (s.write8 s.pc v) = decode v ((s.write8 s.pc v).read8 (s.pc + 1)) ((s.write8 s.pc v).read8 (s.pc + 2)) := by
  rw [fetch_eq_decode, write8_pc, read8_write8_same]

/-- The bytes behind the one at PC are the operand bytes of a fetch of a byte just written there: a write at PC leaves them. -/
theorem fetch_write8_pc_keeps_operands (s : State) (v : Byte) :
    fetch (s.write8 s.pc v) = decode v (s.read8 (s.pc + 1)) (s.read8 (s.pc + 2)) := by
  have hfirst : s.pc + 1 ≠ s.pc := by bv_omega
  have hsecond : s.pc + 2 ≠ s.pc := by bv_omega
  rw [fetch_write8_pc, read8_write8_other s v hfirst, read8_write8_other s v hsecond]

/-- Settles O44: the state's only change is one byte of memory, and the fetch reads it there. -/
theorem memWriteChangesOneByte : Obligations.MemWriteChangesOneByte := by
  refine fun s addr v => ⟨read8_write8_same s _ v, fun other hother => ?_, fun hpc => ?_, rfl⟩
  · exact read8_write8_other s v fun heq => hother (heq ▸ BitVec.toNat_ofNat addr 16)
  · have haddr : BitVec.ofNat 16 addr = s.pc := BitVec.eq_of_toNat_eq ((BitVec.toNat_ofNat addr 16).trans hpc.symm)
    rw [haddr]
    exact fetch_write8_pc s v

/-- A `STA` is a write of A once PC has moved on: the two do not disturb each other (R73). -/
theorem exec_sta (addr16 : Addr) (s : State) : exec (.sta addr16) s = .next ((s.advance 3).write8 addr16 s.a) := rfl

/-- Settles O15: a `STA` to PC + 3 writes at its own next PC. -/
theorem storedByteIsFetchedNext : Obligations.StoredByteIsFetchedNext := by
  intro s t hexec
  rw [exec_sta] at hexec
  obtain rfl := Host.Outcome.next.inj hexec
  have hfetch := fetch_write8_pc_keeps_operands (s.advance 3) s.a
  simp only [advance_pc, advance_read8, BitVec.add_assoc] at hfetch
  exact hfetch

/-! ## The operand bytes of a `CALL` -/

/-- Settles O14: the target is in the decoded instruction, whatever the pushes store. -/
theorem callTargetIsReadBeforePushes : Obligations.CallTargetIsReadBeforePushes := by
  intro s hrun hop
  have hfetch : fetch s = .instr (.call (joinBytes (s.read8 (s.pc + 2)) (s.read8 (s.pc + 1)))) := by
    rw [fetch_eq_decode, hop]
    rfl
  exact ⟨_, (step_of_instr hrun hfetch).trans (exec_eq _ s), rfl⟩

/-! ## A pull after a push -/

/-- Where SP is one above what it was at a push, a pop reads the byte that was pushed, for both values of `PUSH_POST_INC` (R35, R36). -/
theorem popAddress_eq_pushAddress {s u : State} (hsp : u.sp = s.sp + 1) (hcfg : u.cfg = s.cfg) :
    popAddress u = pushAddress s := by
  unfold popAddress pushAddress
  rw [hcfg, hsp, BitVec.add_sub_cancel]

/-- Settles O35: the pull reads the slot of the push, and SP goes back by what it went on. -/
theorem pullUndoesPush : Obligations.PullUndoesPush := by
  intro s t u hexec hsp hcfg hbyte
  rw [eq_nextState hexec] at hsp hcfg hbyte
  have hspNext : u.sp = s.sp + 1 := hsp
  have hslot : popAddress u = pushAddress s := popAddress_eq_pushAddress hspNext hcfg
  refine ⟨nextState .pla u, exec_eq .pla u, ?_, ?_⟩
  · calc u.read8 (popAddress u) = u.read8 (pushAddress s) := by rw [hslot]
      _ = (s.write8 (pushAddress s) s.a).read8 (pushAddress s) := hbyte
      _ = s.a := read8_write8_same s (pushAddress s) s.a
  · calc u.sp - 1 = s.sp + 1 - 1 := by rw [hspNext]
      _ = s.sp := BitVec.add_sub_cancel s.sp 1

/-! ## Canonical memories as data -/

/-- The canonical form, as a condition on neighbours and one on each cell. -/
theorem Memory.wf_iff (m : Memory) :
    Memory.wf m = true ↔ m.Pairwise (fun c d => c.1 < d.1) ∧ ∀ c ∈ m, c.1 < memSize ∧ c.2 ≠ unlistedByte := by
  induction m with
  | nil => simp [Memory.wf]
  | cons c m ih =>
    rw [Memory.wf_cons, ih, List.pairwise_cons, List.forall_mem_cons]
    tauto

/-- A cell of memories with rising addresses is what its address reads as: no earlier cell hides it. -/
theorem Memory.read_of_mem {m : Memory} {c : Host.Cell} (hm : m.Pairwise fun c d => c.1 < d.1) (hc : c ∈ m) :
    m.read c.1 = c.2 := by
  induction m with
  | nil => cases hc
  | cons d m ih =>
    obtain ⟨habove, hrest⟩ := List.pairwise_cons.mp hm
    rw [Memory.read_cons]
    obtain rfl | hc := List.mem_cons.mp hc
    · exact if_pos rfl
    · rw [if_neg (habove c hc).ne]
      exact ih hrest hc

/-- An address that reads as another byte than an unlisted one is listed, with that byte. -/
theorem Memory.mem_of_read_ne {m : Memory} {addr : Nat} (h : m.read addr ≠ unlistedByte) : (addr, m.read addr) ∈ m := by
  induction m with
  | nil => exact absurd rfl h
  | cons d m ih =>
    rw [Memory.read_cons] at h ⊢
    split at h
    · next haddr =>
      rw [if_pos haddr, ← haddr]
      exact List.mem_cons_self
    · next haddr =>
      rw [if_neg haddr]
      exact List.mem_cons_of_mem d (ih h)

/-- A memory lists every cell of a canonical memory that reads the same. -/
theorem Memory.subset_of_read_eq {m k : Memory} (hm : Memory.wf m = true)
    (hread : ∀ addr : Addr, m.read addr.toNat = k.read addr.toNat) : m ⊆ k := by
  intro c hc
  obtain ⟨hrising, hcells⟩ := (Memory.wf_iff m).mp hm
  obtain ⟨hsize, hval⟩ := hcells c hc
  have hk : k.read c.1 = c.2 := by
    have := hread (BitVec.ofNat 16 c.1)
    rw [BitVec.toNat_ofNat, Nat.mod_eq_of_lt hsize] at this
    rw [← this, Memory.read_of_mem hrising hc]
  have hmem : (c.1, k.read c.1) ∈ k := Memory.mem_of_read_ne (hk ▸ hval)
  rwa [hk] at hmem

/-- Settles O47: the memories list the same cells, and a list with rising addresses is fixed by its cells. -/
theorem canonicalMemoriesAreEqual : Obligations.CanonicalMemoriesAreEqual := by
  intro m k hm hk hread
  have hmk : m ⊆ k := Memory.subset_of_read_eq hm hread
  have hkm : k ⊆ m := Memory.subset_of_read_eq hk fun addr => (hread addr).symm
  obtain ⟨hrisingM, -⟩ := (Memory.wf_iff m).mp hm
  obtain ⟨hrisingK, -⟩ := (Memory.wf_iff k).mp hk
  have hirrefl : Std.Irrefl fun c d : Host.Cell => c.1 < d.1 := ⟨fun c => lt_irrefl c.1⟩
  have hantisymm : Std.Antisymm fun c d : Host.Cell => c.1 < d.1 := ⟨fun _ _ hcd hdc => absurd hdc hcd.asymm⟩
  exact hmk.antisymm_of_pairwise hrisingM hrisingK hkm

end Sys2Proof.Machine

/-! # Encoding and decoding (R46 to R59)

What the first byte says of the format, what a decoded triple encodes to, and what the bytes of an encoding decode to. Byte buffers,
listings, unchecked instructions, fetches and booted images are read off these. -/

namespace Sys2Proof

open Sys2Proof.Machine

/-! ## The format of a first byte (R49) -/

/-- The opcode bytes of each format, R49's three lists. -/
def opcodesOf : Format → List Byte
  | .F0 => [0x00, 0x02, 0x09, 0x0A, 0x0F, 0x12, 0x13, 0x14]
  | .F8 => [0x01, 0x05, 0x0B, 0x0C, 0x16]
  | .F16 => [0x03, 0x04, 0x06, 0x07, 0x08, 0x0D, 0x0E, 0x10, 0x11]

theorem opcodeFormat_eq_some_iff (b0 : Byte) (f : Format) : opcodeFormat b0 = some f ↔ b0 ∈ opcodesOf f := by
  constructor
  · intro h
    unfold opcodeFormat at h
    split at h <;> cases h <;> decide
  · revert b0
    cases f <;> decide

theorem opcodesOf_lt {b0 : Byte} {f : Format} (h : b0 ∈ opcodesOf f) : b0 ≠ 0x15 ∧ b0.toNat < 0x17 := by
  revert b0
  cases f <;> decide

/-- The unknown bytes are the one gap in the opcodes and everything above them (R51). -/
theorem opcodeFormat_eq_none_iff (b0 : Byte) : opcodeFormat b0 = none ↔ b0 = 0x15 ∨ 0x17 ≤ b0.toNat := by
  constructor
  · intro hnone
    by_cases hlt : b0.toNat < 0x17
    · have hgap : ∀ n < 0x17, opcodeFormat (BitVec.ofNat 8 n) = none → BitVec.ofNat 8 n = 0x15 := by decide
      have := hgap b0.toNat hlt
      rw [BitVec.ofNat_toNat, BitVec.setWidth_eq] at this
      exact .inl (this hnone)
    · exact .inr (Nat.le_of_not_lt hlt)
  · intro h
    cases hf : opcodeFormat b0 with
    | none => rfl
    | some f =>
      obtain ⟨hne, hlt⟩ := opcodesOf_lt ((opcodeFormat_eq_some_iff b0 f).mp hf)
      exact h.elim (absurd · hne) fun hge => absurd hge hlt.not_ge

/-- The unknown byte values are one of the first 23 and the 233 from 0x17 on. -/
theorem length_filter_unknown :
    ((List.range 256).filter fun n => opcodeFormat (BitVec.ofNat 8 n) = none).length = 234 := by
  have hlow : ((List.range 23).filter fun n => opcodeFormat (BitVec.ofNat 8 n) = none) = [0x15] := by decide
  have hhigh : ((List.range 233).map (23 + ·)).filter (fun n => opcodeFormat (BitVec.ofNat 8 n) = none) =
      (List.range 233).map (23 + ·) := by
    refine List.filter_eq_self.mpr fun n hn => decide_eq_true ((opcodeFormat_eq_none_iff _).mpr (.inr ?_))
    obtain ⟨k, hk, rfl⟩ := List.mem_map.mp hn
    have := List.mem_range.mp hk
    rw [BitVec.toNat_ofNat]
    omega
  rw [show 256 = 23 + 233 from rfl, List.range_add, List.filter_append, hlow, hhigh, List.length_append, List.length_map,
    List.length_range]
  rfl

theorem decode_of_unknown {b0 : Byte} (h : opcodeFormat b0 = none) (b1 b2 : Byte) : decode b0 b1 b2 = .unknown b0 := by
  rw [decode_ignores, h]

theorem listing_of_unknown {b0 : Byte} (h : opcodeFormat b0 = none) (rest : List Byte) :
    listing (b0 :: rest) = .unknown b0 :: listing rest := by
  rw [listing.eq_def]
  simp only [h]

/-! ## The bytes of a number (R7, R46) -/

theorem lowByte_toNat (w : Addr) : (lowByte w).toNat = w.toNat % 256 := by
  simp [lowByte]

theorem highByte_toNat (w : Addr) : (highByte w).toNat = w.toNat / 256 := by
  have := w.isLt
  simp [highByte, Nat.shiftRight_eq_div_pow]
  omega

theorem byteOfNumber_toNat (w k : Nat) : (byteOfNumber w k).toNat = w / 2 ^ (8 * k) % 256 := by
  rw [byteOfNumber, BitVec.toNat_ofNat, Nat.shiftRight_eq_div_pow]

theorem eq_joinBytes {h l : Byte} {w : Addr} (hl : lowByte w = l) (hh : highByte w = h) : w = joinBytes h l := by
  rw [← hl, ← hh, joinBytes_high_low]

/-- The number that operand bytes stand for, low byte first (R29, R48). -/
def operandNumber (bytes : List Byte) : Nat := bytes.foldr (fun v n => v.toNat + 256 * n) 0

theorem operandNumber_one {v : Nat} (hv : v < 256) : operandNumber [byteOfNumber v 0] = v := by
  simp only [operandNumber, List.foldr, byteOfNumber_toNat]
  omega

theorem operandNumber_two {v : Nat} (hv : v < 65536) : operandNumber [byteOfNumber v 0, byteOfNumber v 1] = v := by
  simp only [operandNumber, List.foldr, byteOfNumber_toNat]
  omega

/-! ## An instruction and its bytes (R53 to R55) -/

theorem encodedLength (i : Instr) : Laws.EncodedLength.Statement i := by
  cases i <;> exact ⟨rfl, rfl, rfl⟩

@[simp] theorem opcodeFormat_opcode (i : Instr) : opcodeFormat i.opcode = some i.format := (encodedLength i).2.1

theorem length_operandBytes (i : Instr) : i.operandBytes.length + 1 = i.length := (encodedLength i).2.2

/-- What a triple decodes to encodes to the triple's first bytes (R55). -/
theorem encode_of_decode {b0 b1 b2 : Byte} {i : Instr} (h : decode b0 b1 b2 = .instr i) :
    encode i = [b0, b1, b2].take i.length := by
  unfold decode at h
  split at h <;> cases h <;> simp [encode, Instr.opcode, Instr.operandBytes, Instr.length, Instr.format, Format.length]

/-- A triple that begins with the encoding of an instruction decodes to it (R55). -/
theorem decode_of_encode {b0 b1 b2 : Byte} {i : Instr} (h : encode i = [b0, b1, b2].take i.length) :
    decode b0 b1 b2 = .instr i := by
  cases i with
  | jmp w | jz w | jr w | call w | setsp w | ldaMem w | ldbMem w | sta w | stb w =>
    cases h
    simp [decode, Instr.opcode]
  | _ =>
    cases h
    rfl

theorem operandBytes_of_decode {b0 b1 b2 : Byte} {i : Instr} (h : decode b0 b1 b2 = .instr i) :
    b0 = i.opcode ∧ i.operandBytes = [b1, b2].take i.operandBytes.length := by
  have henc := encode_of_decode h
  rw [← length_operandBytes, encode, List.take_succ_cons] at henc
  obtain ⟨hop, hbytes⟩ := List.cons.inj henc
  exact ⟨hop.symm, hbytes⟩

/-- The first byte of a triple that decodes has the format of the instruction (R49). -/
theorem opcodeFormat_of_decode {b0 b1 b2 : Byte} {i : Instr} (h : decode b0 b1 b2 = .instr i) :
    opcodeFormat b0 = some i.format := by
  rw [(operandBytes_of_decode h).1, opcodeFormat_opcode]

theorem encode_of_decode_of_format {b0 b1 b2 : Byte} {i : Instr} {f : Format} (hf : opcodeFormat b0 = some f)
    (h : decode b0 b1 b2 = .instr i) : encode i = [b0, b1, b2].take f.length := by
  rw [encode_of_decode h, Instr.length, Option.some.inj (hf.symm.trans (opcodeFormat_of_decode h))]

/-- A first byte that has a format decodes, whatever its operand bytes (R51). -/
theorem exists_decode_of_format {b0 : Byte} {f : Format} (h : opcodeFormat b0 = some f) (b1 b2 : Byte) :
    ∃ i, decode b0 b1 b2 = .instr i := by
  unfold opcodeFormat at h
  split at h <;> cases h <;> exact ⟨_, rfl⟩

/-- The three shapes of an encoding (R46, R54), and what the bytes of each decode to, whatever bytes follow them (R50). -/
theorem encode_cases (i : Instr) :
    (i.format = .F0 ∧ encode i = [i.opcode] ∧ ∀ b1 b2, decode i.opcode b1 b2 = .instr i) ∨
    (∃ b1, i.format = .F8 ∧ encode i = [i.opcode, b1] ∧ ∀ b2, decode i.opcode b1 b2 = .instr i) ∨
    ∃ b1 b2, i.format = .F16 ∧ encode i = [i.opcode, b1, b2] ∧ decode i.opcode b1 b2 = .instr i := by
  have hlen := length_operandBytes i
  have hdec : ∀ {b1 b2}, encode i = [i.opcode, b1, b2].take i.length → decode i.opcode b1 b2 = .instr i := decode_of_encode
  rw [Instr.length] at hlen hdec
  cases hf : i.format <;> rw [hf, Format.length] at hlen hdec
  case F0 =>
    have henc : encode i = [i.opcode] := by rw [encode, List.eq_nil_of_length_eq_zero (Nat.succ.inj hlen)]
    exact .inl ⟨rfl, henc, fun _ _ => hdec henc⟩
  case F8 =>
    obtain ⟨b1, hop⟩ := List.length_eq_one_iff.mp (Nat.succ.inj hlen)
    have henc : encode i = [i.opcode, b1] := by rw [encode, hop]
    exact .inr (.inl ⟨b1, rfl, henc, fun _ => hdec henc⟩)
  case F16 =>
    obtain ⟨b1, b2, hop⟩ := List.length_eq_two.mp (Nat.succ.inj hlen)
    have henc : encode i = [i.opcode, b1, b2] := by rw [encode, hop]
    exact .inr (.inr ⟨b1, b2, rfl, henc, hdec henc⟩)

/-! ## Byte buffers and listings (R53, R58) -/

theorem toResult_eq_ok_iff (d : Decoded) (tail rest : List Byte) (i : Instr) :
    d.toResult tail = .ok (i, rest) ↔ d = .instr i ∧ tail = rest := by
  cases d <;> simp [Decoded.toResult]

theorem decodeBytes_encode (i : Instr) (rest : List Byte) : decodeBytes (encode i ++ rest) = .ok (i, rest) := by
  obtain ⟨hf, henc, hdec⟩ | ⟨b1, hf, henc, hdec⟩ | ⟨b1, b2, hf, henc, hdec⟩ := encode_cases i <;>
    simp [henc, decodeBytes, hf, hdec, Decoded.toResult]

theorem listing_encode (i : Instr) (rest : List Byte) : listing (encode i ++ rest) = .instr i :: listing rest := by
  obtain ⟨hf, henc, hdec⟩ | ⟨b1, hf, henc, hdec⟩ | ⟨b1, b2, hf, henc, hdec⟩ := encode_cases i <;>
    simp [henc, listing.eq_def (_ :: _), hf, hdec, Decoded.toLine]

theorem eq_encode_append_of_decodeBytes {bytes rest : List Byte} {i : Instr} (h : decodeBytes bytes = .ok (i, rest)) :
    bytes = encode i ++ rest := by
  unfold decodeBytes at h
  split at h
  · cases h
  · split at h
    case h_1 | h_5 => cases h
    all_goals
      next hf =>
      obtain ⟨hdec, rfl⟩ := (toResult_eq_ok_iff _ _ _ _).mp h
      rw [encode_of_decode_of_format hf hdec]
      rfl

/-- Settles O7: an encoding decodes by its shape, and what decodes is the encoding by the format of the first byte. -/
theorem decodingIsInverseOfEncoding : Obligations.DecodingIsInverseOfEncoding := by
  refine fun bytes rest i => ⟨eq_encode_append_of_decodeBytes, fun h => ?_⟩
  rw [h]
  exact decodeBytes_encode i rest

/-- Settles O8, by induction on the program. -/
theorem listingOfAssembledProgram : Obligations.ListingOfAssembledProgram := by
  intro prog bytes
  induction prog with
  | nil => rfl
  | cons i prog ih =>
    rw [assemble, List.flatMap_cons, List.append_assoc, listing_encode, ← assemble, ih]
    rfl

/-! ## The triple of a decoded instruction (R48, R55) -/

/-- Settles O4: the operand bytes of the instruction are the triple's, and they fix the operand. -/
theorem operandsAreAssembledFromBytes : Obligations.OperandsAreAssembledFromBytes := by
  intro b0 b1 b2 i hdec
  obtain ⟨-, hbytes⟩ := operandBytes_of_decode hdec
  refine ⟨fun v hv => ?_, fun w hw => ?_⟩
  · have hop : i.operandBytes = [v] := by
      obtain rfl | rfl | rfl | rfl | rfl := hv <;> rfl
    rw [hop] at hbytes
    exact (List.cons.inj hbytes).1
  · have hop : i.operandBytes = [lowByte w, highByte w] := by
      obtain rfl | rfl | rfl | rfl | rfl | rfl | rfl | rfl | rfl := hw <;> rfl
    rw [hop] at hbytes
    obtain ⟨hlow, hhigh⟩ := List.cons.inj hbytes
    rw [eq_joinBytes hlow (List.cons.inj hhigh).1, joinBytes_toNat]

/-- Settles O6: both halves are facts about one decoded triple. -/
theorem encodeOfDecodedBytes : Obligations.EncodeOfDecodedBytes :=
  fun _ _ _ _ hdec => ⟨opcodeFormat_of_decode hdec, encode_of_decode hdec⟩

/-! ## Unchecked instructions (R54, U6) -/

/-- The three ways to be well formed, one for each format. -/
theorem wf_cases {r : RawInstr} (h : r.wf = true) :
    r.opcode < 256 ∧
      ((opcodeFormat (BitVec.ofNat 8 r.opcode) = some .F0 ∧ r.operand = none) ∨
        (∃ v < 256, opcodeFormat (BitVec.ofNat 8 r.opcode) = some .F8 ∧ r.operand = some v) ∨
        ∃ v < 65536, opcodeFormat (BitVec.ofNat 8 r.opcode) = some .F16 ∧ r.operand = some v) := by
  obtain ⟨hlt, hfmt⟩ := (Bool.and_eq_true _ _).mp h
  refine ⟨of_decide_eq_true hlt, ?_⟩
  split at hfmt
  case h_1 hf hop => exact .inl ⟨hf, hop⟩
  case h_2 v hf hop => exact .inr (.inl ⟨v, of_decide_eq_true hfmt, hf, hop⟩)
  case h_3 v hf hop => exact .inr (.inr ⟨v, of_decide_eq_true hfmt, hf, hop⟩)
  case h_4 => cases hfmt

/-- The instruction that an opcode number with a format and two operand bytes begin. -/
theorem exists_instr_of_opcode {n : Nat} (hn : n < 256) {f : Format} (hf : opcodeFormat (BitVec.ofNat 8 n) = some f)
    (b1 b2 : Byte) :
    ∃ i, decode (BitVec.ofNat 8 n) b1 b2 = .instr i ∧ i.opcode.toNat = n ∧ i.operandBytes = [b1, b2].take (f.length - 1) := by
  obtain ⟨i, hdec⟩ := exists_decode_of_format hf b1 b2
  obtain ⟨hop, hbytes⟩ := operandBytes_of_decode hdec
  have hformat : f = i.format := Option.some.inj (hf.symm.trans (opcodeFormat_of_decode hdec))
  have hlen : i.operandBytes.length = f.length - 1 := by
    rw [hformat, ← Instr.length, ← length_operandBytes, Nat.add_sub_cancel]
  refine ⟨i, hdec, ?_, hlen ▸ hbytes⟩
  rw [← hop, BitVec.toNat_ofNat, Nat.mod_eq_of_lt hn]

/-- A well-formed unchecked instruction is accepted, with its opcode and its operand. -/
theorem toInstr_of_wf {r : RawInstr} (h : r.wf = true) :
    ∃ i, r.toInstr = some i ∧ i.opcode.toNat = r.opcode ∧ operandNumber i.operandBytes = r.operand.getD 0 := by
  obtain ⟨hlt, ⟨hf, hop⟩ | ⟨v, hv, hf, hop⟩ | ⟨v, hv, hf, hop⟩⟩ := wf_cases h
  · obtain ⟨i, hdec, hcode, hbytes⟩ := exists_instr_of_opcode hlt hf 0 0
    refine ⟨i, by simp only [RawInstr.toInstr, hlt, hf, hop, hdec, if_true], hcode, ?_⟩
    rw [hbytes, hop]
    rfl
  · obtain ⟨i, hdec, hcode, hbytes⟩ := exists_instr_of_opcode hlt hf (byteOfNumber v 0) 0
    refine ⟨i, by simp only [RawInstr.toInstr, hlt, hf, hop, hdec, hv, if_true], hcode, ?_⟩
    rw [hbytes, hop]
    exact operandNumber_one hv
  · obtain ⟨i, hdec, hcode, hbytes⟩ := exists_instr_of_opcode hlt hf (byteOfNumber v 0) (byteOfNumber v 1)
    refine ⟨i, by simp only [RawInstr.toInstr, hlt, hf, hop, hdec, hv, if_true], hcode, ?_⟩
    rw [hbytes, hop]
    exact operandNumber_two hv

theorem wf_of_toInstr {r : RawInstr} {i : Instr} (h : r.toInstr = some i) : r.wf = true := by
  unfold RawInstr.toInstr at h
  split at h
  case isFalse => cases h
  case isTrue hlt =>
    dsimp only at h
    split at h
    case h_1 hf hop => simp [RawInstr.wf, hlt, hf, hop]
    case h_2 v hf hop | h_3 v hf hop =>
      have hv := (Option.ite_none_right_eq_some.mp h).1
      simp [RawInstr.wf, hlt, hf, hop, hv]
    case h_4 => cases h

/-- Settles O9: what is well formed is accepted as itself, and nothing else is accepted. -/
theorem encoderAcceptsExactlyWellFormed : Obligations.EncoderAcceptsExactlyWellFormed := by
  intro r
  cases hwf : r.wf with
  | true =>
    obtain ⟨i, hi, hspec⟩ := toInstr_of_wf hwf
    rw [hi]
    exact ⟨rfl, fun j hj => Option.some.inj hj ▸ hspec⟩
  | false =>
    have hnone : r.toInstr = none :=
      Option.eq_none_iff_forall_ne_some.mpr fun i hi => Bool.false_ne_true (hwf.symm.trans (wf_of_toInstr hi))
    rw [hnone]
    exact ⟨rfl, nofun⟩

/-! ## The fetch (R52, R57) -/

/-- Where the bytes from PC on are the encoding of an instruction, the fetch gives it. -/
theorem fetch_of_encoding {s : State} {i : Instr}
    (h : ∀ (k : Nat) (v : Byte), (encode i)[k]? = some v → s.read8 (s.pc + BitVec.ofNat 16 k) = v) :
    fetch s = .instr i := by
  have h0 : s.read8 s.pc = i.opcode := by
    simpa only [BitVec.ofNat_eq_ofNat, BitVec.add_zero] using h 0 i.opcode rfl
  rw [fetch_eq_decode, h0]
  obtain ⟨-, -, hdec⟩ | ⟨b1, -, henc, hdec⟩ | ⟨b1, b2, -, henc, hdec⟩ := encode_cases i
  · exact hdec _ _
  · have h1 : s.read8 (s.pc + 1) = b1 := h 1 b1 (by rw [henc]; rfl)
    rw [h1]
    exact hdec _
  · have h1 : s.read8 (s.pc + 1) = b1 := h 1 b1 (by rw [henc]; rfl)
    have h2 : s.read8 (s.pc + 2) = b2 := h 2 b2 (by rw [henc]; rfl)
    rw [h1, h2]
    exact hdec

/-- Settles O11: the bytes the step fetches are those of the encoding. -/
theorem storedEncodingIsRun : Obligations.StoredEncodingIsRun := by
  refine fun s i hrun hbytes => step_of_instr hrun (fetch_of_encoding fun k v hv => ?_)
  obtain ⟨hk, rfl⟩ := List.getElem?_eq_some_iff.mp hv
  exact hbytes k hk

theorem placeAtPC_read8 (s : State) (nbits w : Nat) :
    (placeAtPC s nbits w).read8 s.pc = tableByte nbits w 0 ∧
      (placeAtPC s nbits w).read8 (s.pc + 1) = tableByte nbits w 1 ∧
      (placeAtPC s nbits w).read8 (s.pc + 2) = tableByte nbits w 2 := by
  have hread : ∀ addr, (placeAtPC s nbits w).read8 addr =
      (((s.write8 s.pc (tableByte nbits w 0)).write8 (s.pc + 1) (tableByte nbits w 1)).write8 (s.pc + 2)
        (tableByte nbits w 2)).read8 addr := fun _ => rfl
  have h01 : s.pc ≠ s.pc + 1 := by bv_omega
  have h02 : s.pc ≠ s.pc + 2 := by bv_omega
  have h12 : s.pc + 1 ≠ s.pc + 2 := by bv_omega
  simp only [hread, write8_read8, h01, h02, h12, if_true, if_false, and_self]

theorem fetch_placeAtPC (s : State) (nbits w : Nat) :
    fetch (placeAtPC s nbits w) = decode (tableByte nbits w 0) (tableByte nbits w 1) (tableByte nbits w 2) := by
  obtain ⟨h0, h1, h2⟩ := placeAtPC_read8 s nbits w
  rw [← h0, ← h1, ← h2]
  exact fetch_eq_decode (placeAtPC s nbits w)

theorem decode_of_decodeTableWord {nbits w : Nat} {i : Instr} (h : decodeTableWord nbits w = some i) :
    decode (tableByte nbits w 0) (tableByte nbits w 1) (tableByte nbits w 2) = .instr i := by
  unfold decodeTableWord at h
  split at h
  · next hdec => rw [hdec, Option.some.inj h]
  · cases h

/-- Settles O12: the placed bytes are the ones fetched, and the placed state is RUNNING. -/
theorem fetchWordIsRun : Obligations.FetchWordIsRun :=
  fun s nbits w _ h => step_of_instr rfl ((fetch_placeAtPC s nbits w).trans (decode_of_decodeTableWord h))

/-! ## A booted program (R56, R106) -/

theorem assemble_append (prog more : List Instr) : assemble (prog ++ more) = assemble prog ++ assemble more :=
  List.flatMap_append

theorem assemble_cons (i : Instr) (prog : List Instr) : assemble (i :: prog) = encode i ++ assemble prog :=
  List.flatMap_cons

theorem instructionAddress_succ {prog : List Instr} {k : Nat} (h : k < prog.length) :
    instructionAddress prog (k + 1) = instructionAddress prog k + prog[k].length := by
  rw [instructionAddress, ← List.take_append_getElem h, assemble_append, assemble_cons, List.length_append, ← Nat.add_assoc,
    List.length_append]
  exact congrArg _ (length_operandBytes prog[k])

/-- A program's bytes around those of its `k`-th instruction. -/
theorem assemble_eq_around {prog : List Instr} {k : Nat} (h : k < prog.length) :
    assemble prog = assemble (prog.take k) ++ (encode prog[k] ++ assemble (prog.drop (k + 1))) := by
  rw [← assemble_cons, ← List.drop_eq_getElem_cons h, ← assemble_append, List.take_append_drop]

theorem assemble_getElem? {prog : List Instr} {k j : Nat} {v : Byte} (h : k < prog.length) (hv : (encode prog[k])[j]? = some v) :
    (assemble prog)[(assemble (prog.take k)).length + j]? = some v := by
  obtain ⟨hj, -⟩ := List.getElem?_eq_some_iff.mp hv
  rw [assemble_eq_around h, List.getElem?_append_right (Nat.le_add_right _ _), Nat.add_sub_cancel_left,
    List.getElem?_append_left hj, hv]

/-- What a boot that starts leaves in memory: `MEM_INIT` with an image that fits loaded over it (R105). -/
theorem boot_eq_ok {p : BootParams} {image : List Byte} {s : State} (h : boot p image = .ok s) :
    image.length ≤ 32768 ∧ s.mem = loadBytes p.memInit loadBase image := by
  unfold boot at h
  split at h
  · next hwf =>
    obtain rfl := Except.ok.inj h
    exact ⟨of_decide_eq_true hwf, rfl⟩
  · cases h

theorem boot_read8 {p : BootParams} {image : List Byte} {s : State} (h : boot p image = .ok s) {j : Nat} {v : Byte}
    (hv : image[j]? = some v) : s.read8 (BitVec.ofNat 16 (loadBase + j)) = v := by
  obtain ⟨hlen, hmem⟩ := boot_eq_ok h
  obtain ⟨hj, rfl⟩ := List.getElem?_eq_some_iff.mp hv
  have haddr : (BitVec.ofNat 16 (loadBase + j)).toNat = loadBase + j :=
    (BitVec.toNat_ofNat _ 16).trans (Nat.mod_eq_of_lt (by simp only [loadBase]; omega))
  rw [State.read8, hmem, haddr, loadBytes_read, dif_pos (by omega)]
  simp only [Nat.add_sub_cancel_left]

/-- Settles O55: the image holds the encoding of each instruction at its address, and the fetch reads it there. -/
theorem assembledProgramIsFetched : Obligations.AssembledProgramIsFetched := by
  refine fun p prog s hboot k hk => ⟨instructionAddress_succ hk, fetch_of_encoding fun j v hv => ?_⟩
  have haddr : BitVec.ofNat 16 (instructionAddress prog k) + BitVec.ofNat 16 j =
      BitVec.ofNat 16 (loadBase + ((assemble (prog.take k)).length + j)) := by
    rw [← BitVec.ofNat_add, instructionAddress, Nat.add_assoc]
  exact (congrArg s.read8 haddr).trans (boot_read8 hboot (assemble_getElem? hk hv))

/-! ## The opcode table (R47, R50, R52, R54) -/

/-- Settles O1, by evaluating the twelve words. -/
theorem wordsOfEachFamilyDecode : Obligations.WordsOfEachFamilyDecode := by
  unfold Obligations.WordsOfEachFamilyDecode
  decide

/-- Settles O2: the three lists, the bytes in none of them, and their number. -/
theorem lengthIsFunctionOfFirstByte : Obligations.LengthIsFunctionOfFirstByte :=
  ⟨fun b0 => ⟨opcodeFormat_eq_some_iff b0 .F0, opcodeFormat_eq_some_iff b0 .F8, opcodeFormat_eq_some_iff b0 .F16,
      opcodeFormat_eq_none_iff b0⟩,
    rfl, rfl, rfl, length_filter_unknown, fun _ rest hnone => listing_of_unknown hnone rest⟩

/-- Settles O3: one row for each opcode, and the bytes without a format. -/
theorem decodeFollowsTable : Obligations.DecodeFollowsTable :=
  fun b1 b2 => ⟨rfl, rfl, rfl, rfl, rfl, rfl, rfl, rfl, rfl, rfl, rfl, rfl, rfl, rfl, rfl, rfl, rfl, rfl, rfl, rfl, rfl, rfl,
    fun b0 hb0 => decode_of_unknown ((opcodeFormat_eq_none_iff b0).mpr hb0) b1 b2⟩

/-- Settles O5: one row for each instruction, and the two bytes as numbers. -/
theorem encodeFollowsTable : Obligations.EncodeFollowsTable :=
  fun _ w => ⟨rfl, rfl, rfl, rfl, rfl, rfl, rfl, rfl, rfl, rfl, rfl, rfl, rfl, rfl, rfl, rfl, rfl, rfl, rfl, rfl, rfl, rfl,
    lowByte_toNat w, highByte_toNat w⟩

/-- Settles O10: the fetch decodes the three bytes at PC. -/
theorem stepRunsDecodedInstruction : Obligations.StepRunsDecodedInstruction :=
  fun s _ hrun hdec => step_of_instr hrun ((fetch_eq_decode s).trans hdec)

end Sys2Proof

/-! # Arithmetic (R64 to R67)

What `ADD`, `SUB` and `CMP` change besides R, when their result is zero, and what a `JZ` behind them tells of it. -/

namespace Sys2Proof.Machine

/-! ## What an arithmetic instruction changes -/

/-- The instructions that write R do that, go on behind their two bytes, and nothing else (R64). -/
theorem nextState_of_writesR {i : Instr} (hw : writesR i = true) (s : State) :
    nextState i s = (s.setR (nextR i s)).advance 2 := by
  cases i with
  | add _ | sub _ | cmp _ => rfl
  | _ => cases hw

theorem nextState_frame_of_writesR {i : Instr} (hw : writesR i = true) (s : State) :
    (nextState i s).pc = s.pc + 2 ∧ (nextState i s).a = s.a ∧ (nextState i s).b = s.b ∧ (nextState i s).sp = s.sp ∧
      SameHost s (nextState i s) ∧ SameBytes s (nextState i s) := by
  rw [nextState_of_writesR hw]
  exact ⟨rfl, rfl, rfl, rfl, ⟨rfl, rfl, rfl⟩, fun _ => rfl⟩

/-- `CMP` is `SUB` under another opcode: it writes R too (R67). -/
theorem exec_cmp_eq_exec_sub (imm8 : Byte) (s : State) : exec (.cmp imm8) s = exec (.sub imm8) s := rfl

/-- Settles O19: R is the sum, and the rest is the frame of what writes R. -/
theorem addWritesResultOnly : Obligations.AddWritesResultOnly :=
  fun imm8 s => ⟨nextState (.add imm8) s, exec_eq (.add imm8) s, sumResult_toNat s.a imm8, nextState_frame_of_writesR rfl s⟩

/-- Settles O20: `CMP` answers the state of `SUB`, whose R is the difference; the rest is the frame of what writes R. -/
theorem subAndCmpWriteResultOnly : Obligations.SubAndCmpWriteResultOnly :=
  fun imm8 s => ⟨nextState (.sub imm8) s, exec_eq (.sub imm8) s, (exec_cmp_eq_exec_sub imm8 s).trans (exec_eq (.sub imm8) s),
    differenceResult_toNat s.a imm8, nextState_frame_of_writesR rfl s⟩

/-! ## What a program learns of a result -/

/-- A sum is zero when it is 0 or 256 before the carry is discarded (R64). -/
theorem sumResult_eq_zero_iff (a imm8 : Byte) : sumResult a imm8 = 0 ↔ imm8.toNat = (256 - a.toNat) % 256 := by
  have ha := a.isLt
  have himm := imm8.isLt
  rw [← BitVec.toNat_inj, sumResult_toNat, show (0 : Byte).toNat = 0 from rfl]
  omega

theorem differenceResult_eq_zero_iff (a imm8 : Byte) : differenceResult a imm8 = 0 ↔ a = imm8 := sub_eq_zero

/-- Where its two ways differ, a `JZ` reaches its target exactly when R is zero (R78). -/
theorem jz_reaches_target_iff {target : Addr} {t u : State} (hne : target ≠ t.pc + 3) (hjz : exec (.jz target) t = .next u) :
    u.pc = target ↔ t.r = 0 := by
  rw [eq_nextState hjz]
  exact hne.ite_eq_left_iff

/-- Settles O21: the `JZ` tests R, which holds the sum or the difference, and each is zero exactly as R64 says. -/
theorem branchAfterArithmetic : Obligations.BranchAfterArithmetic := by
  intro imm8 target s t u hne hjz
  rw [jz_reaches_target_iff hne hjz]
  refine ⟨fun hadd => ?_, fun hsubOrCmp => ?_⟩
  · rw [eq_nextState hadd]
    exact sumResult_eq_zero_iff s.a imm8
  · rw [exec_cmp_eq_exec_sub, or_self] at hsubOrCmp
    rw [eq_nextState hsubOrCmp]
    exact differenceResult_eq_zero_iff s.a imm8

end Sys2Proof.Machine

/-! # Loads, stores and transfers (R69 to R76)

Loads and transfers are a write of one general register and a PC behind the instruction; stores are a write of one byte. The effect and
the frame of each are stated once, for either register. -/

namespace Sys2Proof.Machine

/-! ## One general register written -/

/-- The general register that is not `g` (R11): the one a write of `g` leaves. -/
def Reg.other : Reg → Reg
  | .A => .B
  | .B => .A

theorem setX_x_same (s : State) (g : Reg) (v : Byte) : (s.setX g v).x g = v := by
  cases g <;> rfl

theorem setX_x_other (s : State) (g : Reg) (v : Byte) : (s.setX g v).x g.other = s.x g.other := by
  cases g <;> rfl

/-- Where a general register is written and PC moves on, these two change and nothing else does (R10). -/
theorem setX_advance_effect {s t : State} (g : Reg) (v : Byte) (len : Nat) (ht : t = (s.setX g v).advance len) :
    t.x g = v ∧ t.x g.other = s.x g.other ∧ t.r = s.r ∧ t.pc = s.pc + BitVec.ofNat 16 len ∧ t.sp = s.sp ∧
      SameHost s t ∧ SameBytes s t := by
  subst ht
  refine ⟨setX_x_same s g v, setX_x_other s g v, ?_⟩
  cases g with
  | A => exact ⟨rfl, rfl, rfl, ⟨rfl, rfl, rfl⟩, fun _ => rfl⟩
  | B => exact ⟨rfl, rfl, rfl, ⟨rfl, rfl, rfl⟩, fun _ => rfl⟩

/-- Settles O22: the register's new value is the immediate. -/
theorem loadImmediateCopiesOperand : Obligations.LoadImmediateCopiesOperand :=
  fun imm8 s => ⟨⟨loadImmediate .A imm8 s, rfl, setX_advance_effect .A imm8 2 rfl⟩,
    ⟨loadImmediate .B imm8 s, rfl, setX_advance_effect .B imm8 2 rfl⟩⟩

/-- Settles O23: the register's new value is the byte at `addr16`. -/
theorem loadMemoryReadsAddress : Obligations.LoadMemoryReadsAddress :=
  fun addr16 s => ⟨⟨loadMemory .A addr16 s, rfl, setX_advance_effect .A (s.read8 addr16) 3 rfl⟩,
    ⟨loadMemory .B addr16 s, rfl, setX_advance_effect .B (s.read8 addr16) 3 rfl⟩⟩

/-- Settles O25: the register's new value is the other's, which keeps it. -/
theorem transferCopiesRegister : Obligations.TransferCopiesRegister :=
  fun s => ⟨⟨transfer .B .A s, rfl, setX_advance_effect .A s.b 1 rfl⟩,
    ⟨transfer .A .B s, rfl, setX_advance_effect .B s.a 1 rfl⟩⟩

/-! ## One byte written -/

/-- A store's byte reads as the register's value, and no other byte and no register but PC changes (R10, R32). -/
theorem storeMemory_effect {s t : State} (g : Reg) (addr16 : Addr) (ht : t = storeMemory g addr16 s) :
    t.read8 (effectiveAddress addr16) = s.x g ∧ SameBytesBut [effectiveAddress addr16] s t ∧
      t.a = s.a ∧ t.b = s.b ∧ t.r = s.r ∧ t.pc = s.pc + 3 ∧ t.sp = s.sp ∧ SameHost s t := by
  subst ht
  have hstored := read8_write8_same s (effectiveAddress addr16) (s.x g)
  have hkept := write8_sameBytesBut s (effectiveAddress addr16) (s.x g)
  exact ⟨hstored, hkept, rfl, rfl, rfl, rfl, rfl, rfl, rfl, rfl⟩

/-- Settles O24: `STA` stores `x[A]`, and `STB` `x[B]`. -/
theorem storeWritesOneByte : Obligations.StoreWritesOneByte :=
  fun addr16 s => ⟨⟨storeMemory .A addr16 s, rfl, storeMemory_effect .A addr16 rfl⟩,
    ⟨storeMemory .B addr16 s, rfl, storeMemory_effect .B addr16 rfl⟩⟩

end Sys2Proof.Machine

/-! # Control transfer (R77 to R82)

A jump is a write of PC and nothing else. `CALL` and `RTS` are `Push16` and `Pop16` with a jump behind them, and `Pop16` is the inverse
of `Push16` (R38) for every value of the parameters, so a matched `RTS` comes back. -/

namespace Sys2Proof.Machine

/-! ## A jump -/

/-- A jump writes PC only (R77 to R79). -/
theorem jump_frame (s : State) (target : Addr) :
    (s.jump target).a = s.a ∧ (s.jump target).b = s.b ∧ (s.jump target).r = s.r ∧ (s.jump target).sp = s.sp ∧
      SameHost s (s.jump target) ∧ SameBytes s (s.jump target) :=
  ⟨rfl, rfl, rfl, rfl, ⟨rfl, rfl, rfl⟩, fun _ => rfl⟩

/-- Settles O26: the answer is the state with PC at the address. -/
theorem jmpGoesToAddress : Obligations.JmpGoesToAddress :=
  fun addr16 s => ⟨rfl, s.jump addr16, rfl, rfl, jump_frame s addr16⟩

/-- Settles O27: a `JZ` is a jump to the address of `nextPC`, which R alone decides. -/
theorem jzBranchesOnZeroResult : Obligations.JzBranchesOnZeroResult :=
  fun addr16 s => ⟨s.jump (nextPC (.jz addr16) s), exec_jz addr16 s, (if_pos ·), (if_neg ·), jump_frame s _⟩

/-- The target of `JR`, its offset read as an unsigned number (R79). -/
theorem relativeTarget_toNat (s : State) (rel16 : Addr) :
    (relativeTarget s rel16).toNat = (s.pc.toNat + (jrBaseValue s.cfg.jrBase).toNat + rel16.toNat) % 65536 := by
  rw [relativeTarget, BitVec.toNat_add, BitVec.toNat_add, Nat.mod_add_mod]

/-- The target of `JR`, its offset read as a signed number (R79): the two readings differ by a multiple of 65536. -/
theorem relativeTarget_toInt (s : State) (rel16 : Addr) :
    ((relativeTarget s rel16).toNat : Int) =
      ((s.pc.toNat : Int) + ((jrBaseValue s.cfg.jrBase).toNat : Int) + rel16.toInt) % 65536 := by
  rw [relativeTarget_toNat, BitVec.toInt_eq_toNat_cond]
  split <;> omega

/-- Settles O28: a `JR` is a jump to the relative target, in both readings of its offset. -/
theorem jrAddsSignedOffset : Obligations.JrAddsSignedOffset :=
  fun rel16 s => ⟨s.jump (relativeTarget s rel16), rfl, relativeTarget_toInt s rel16, relativeTarget_toNat s rel16, jump_frame s _⟩

/-! ## The two bytes of a return address -/

/-- The byte `Push16` stores first (R37). -/
theorem push16_read8_first (v : Addr) (s : State) :
    (push16 v s).read8 (pushAddress s) = if s.cfg.retLowFirst then lowByte v else highByte v := by
  have hne : pushAddress s ≠ pushAddress s + 1 := by bv_omega
  rw [(push16_spec v s).1, if_neg hne, if_pos rfl]

/-- The byte `Push16` stores second, one address above the first (R37). -/
theorem push16_read8_second (v : Addr) (s : State) :
    (push16 v s).read8 (pushAddress s + 1) = if s.cfg.retLowFirst then highByte v else lowByte v := by
  rw [(push16_spec v s).1, if_pos rfl]

/-- Where SP is two above what it was at a `Push16`, a pop reads the second of its bytes, for both values of `PUSH_POST_INC`. -/
theorem popAddress_eq_pushAddress_add_one {s u : State} (hsp : u.sp = s.sp + 2) (hcfg : u.cfg = s.cfg) :
    popAddress u = pushAddress s + 1 := by
  have hspTwice : u.sp = (push8 0 s).sp + 1 := hsp.trans (BitVec.add_assoc s.sp 1 1).symm
  rw [popAddress_eq_pushAddress hspTwice hcfg, pushAddress_push8]

/-- `Pop16` is the inverse of `Push16` (R38): where SP and the two bytes are as a push of `v` left them, it pops `v`. -/
theorem pop16_fst_of_pushed {s u : State} {v : Addr} (hsp : u.sp = s.sp + 2) (hcfg : u.cfg = s.cfg)
    (hfirst : u.read8 (pushAddress s) = (push16 v s).read8 (pushAddress s))
    (hsecond : u.read8 (pushAddress s + 1) = (push16 v s).read8 (pushAddress s + 1)) : (pop16 u).1 = v := by
  rw [push16_read8_first] at hfirst
  rw [push16_read8_second] at hsecond
  rw [pop16_spec, popAddress_eq_pushAddress_add_one hsp hcfg, BitVec.add_sub_cancel, hfirst, hsecond, hcfg]
  cases s.cfg.retLowFirst <;> exact joinBytes_high_low v

/-- What `RTS` adds to the popped address is what `CALL` took from it (R80, R81). -/
theorem returnTarget_returnAddress {s u : State} (hcfg : u.cfg = s.cfg) : returnTarget u (returnAddress s) = s.pc + 3 := by
  rw [returnTarget, returnAddress, hcfg, BitVec.sub_add_cancel]

/-! ## `CALL` and `RTS` -/

/-- Settles O29: the bytes are those `Push16` stores, and the rest is read off the tables. -/
theorem callPushesReturnAddress : Obligations.CallPushesReturnAddress :=
  fun addr16 s => ⟨nextState (.call addr16) s, exec_eq (.call addr16) s, rfl, BitVec.add_assoc s.sp 1 1,
    push16_read8_first (returnAddress s) s, push16_read8_second (returnAddress s) s, push16_sameBytesBut s (returnAddress s),
    rfl, rfl, rfl, rfl, rfl, rfl⟩

/-- Settles O30: the target is that of the value `Pop16` makes, and the rest is read off the tables. -/
theorem rtsPopsReturnAddress : Obligations.RtsPopsReturnAddress := by
  refine fun s => ⟨nextState .rts s, exec_eq .rts s, ?_, sub_sub s.sp 1 1, rfl, rfl, rfl, ⟨rfl, rfl, rfl⟩, fun _ => rfl⟩
  exact congrArg (fun popped => returnTarget s popped.1) (pop16_spec s)

/-- Settles O31: the `RTS` pops what the `CALL` pushed, and SP goes back by what it went on. -/
theorem matchedReturnComesBack : Obligations.MatchedReturnComesBack := by
  intro addr16 s t u hexec hsp hcfg hfirst hsecond
  rw [eq_nextState hexec] at hsp hcfg hfirst hsecond
  have hspNext : u.sp = s.sp + 2 := hsp.trans (BitVec.add_assoc s.sp 1 1)
  have hpopped : (pop16 u).1 = returnAddress s := pop16_fst_of_pushed hspNext hcfg hfirst hsecond
  refine ⟨nextState .rts u, exec_eq .rts u, ?_, ?_⟩
  · calc returnTarget u (pop16 u).1 = returnTarget u (returnAddress s) := by rw [hpopped]
      _ = s.pc + 3 := returnTarget_returnAddress hcfg
  · calc u.sp - 1 - 1 = u.sp - 2 := sub_sub u.sp 1 1
      _ = s.sp := by rw [hspNext, BitVec.add_sub_cancel]

end Sys2Proof.Machine

/-! # The stack (R83 to R85)

`SETSP` writes SP. `PHA` is `Push8` of A, and `PLA` is `Pop8` into A (R35, R36); each answers with PC moved on behind the instruction. -/

namespace Sys2Proof.Machine

/-! ## SP written -/

/-- Where SP is written and PC moves on, these two change and nothing else does (R10). -/
theorem setSP_advance_effect {s t : State} (v : Addr) (len : Nat) (ht : t = (s.setSP v).advance len) :
    t.sp = v ∧ t.pc = s.pc + BitVec.ofNat 16 len ∧ t.a = s.a ∧ t.b = s.b ∧ t.r = s.r ∧ SameHost s t ∧ SameBytes s t := by
  subst ht
  exact ⟨rfl, rfl, rfl, rfl, rfl, ⟨rfl, rfl, rfl⟩, fun _ => rfl⟩

/-- Settles O32: SP's new value is the operand. -/
theorem setspLoadsStackPointer : Obligations.SetspLoadsStackPointer :=
  fun addr16 s => ⟨(s.setSP addr16).advance 3, rfl, setSP_advance_effect addr16 3 rfl⟩

/-! ## A push -/

/-- The byte a `Push8` stores reads back at the push address, for both values of `PUSH_POST_INC` (R35). -/
theorem push8_read8_same (v : Byte) (s : State) : (push8 v s).read8 (pushAddress s) = v :=
  read8_write8_same s (pushAddress s) v

theorem push8_sameBytesBut (v : Byte) (s : State) : SameBytesBut [pushAddress s] s (push8 v s) :=
  write8_sameBytesBut s (pushAddress s) v

/-- Settles O33: the byte is the one `Push8` stores, and no register but SP and PC changes. -/
theorem phaPushesA : Obligations.PhaPushesA :=
  fun s => ⟨(push8 s.a s).advance 1, rfl, push8_read8_same s.a s, push8_sameBytesBut s.a s, push8_sp s s.a, rfl, rfl, rfl, rfl,
    rfl, rfl, rfl⟩

/-! ## A pull -/

/-- A `PLA` is a write of A once SP has moved down: `Pop8` moves SP only (R36, R85). -/
theorem exec_pla (s : State) :
    exec .pla s = .next (((s.setSP (s.sp - 1)).setX .A (s.read8 (popAddress s))).advance 1) := rfl

/-- Settles O34: A's new value is the byte `Pop8` reads, and the rest is as the write of A found it, SP moved down. -/
theorem plaPopsIntoA : Obligations.PlaPopsIntoA := by
  intro s
  obtain ⟨ha, hb, hr, hpc, hsp, hhost, hbytes⟩ := setX_advance_effect (s := s.setSP (s.sp - 1)) .A (s.read8 (popAddress s)) 1 rfl
  exact ⟨_, exec_pla s, ha, hsp, hpc, hb, hr, hhost, hbytes⟩

end Sys2Proof.Machine

/-! # System instructions (R87 to R89)

`NOP` is a write of PC, `OUTA` one behind an append to the output stream, and `HLT` a write of the run state, PC kept (D12). -/

namespace Sys2Proof.Machine

/-- `NOP` is a jump to the next instruction (R87). -/
theorem exec_nop (s : State) : exec .nop s = .next (s.jump (s.pc + 1)) := rfl

/-- `OUTA` is a jump to the next instruction once A is appended to the output stream (R88). -/
theorem exec_outa (s : State) : exec .outa s = .next ((output s.a s).jump (s.pc + 1)) := rfl

/-- Settles O36: the rest is the frame of a jump. -/
theorem nopOnlyAdvances : Obligations.NopOnlyAdvances :=
  fun s => ⟨s.jump (s.pc + 1), exec_nop s, jump_pc s (s.pc + 1), jump_frame s (s.pc + 1)⟩

/-- Settles O37: the jump keeps what the append made of the state, and the append changes the output stream only. -/
theorem outaAppendsA : Obligations.OutaAppendsA := by
  intro s
  obtain ⟨ha, hb, hr, hsp, ⟨hrun, hout, hcfg⟩, hbytes⟩ := jump_frame (output s.a s) (s.pc + 1)
  exact ⟨_, exec_outa s, hout, jump_pc _ (s.pc + 1), ha, hb, hr, hsp, hrun, hcfg, hbytes⟩

/-- Settles O38: a halt writes the run state only. -/
theorem hltHaltsWithA : Obligations.HltHaltsWithA :=
  fun s => ⟨halt s.a s, exec_hlt s, halt_run s s.a, halt_pc s s.a, halt_a s s.a, halt_b s s.a, halt_r s s.a, halt_sp s s.a,
    halt_out s s.a, halt_cfg s s.a, halt_read8 s s.a⟩

end Sys2Proof.Machine

/-! # The unknown-opcode exception (R92 to R94, R98)

The byte at PC alone decides that a step takes the vector, and the step is then a jump to the address in the vector. -/

namespace Sys2Proof.Machine

/-! ## The cause -/

/-- The unknown bytes are those that have no format (R49, R92). -/
theorem isUnknownOpcode_eq (v : Byte) : isUnknownOpcode v = decide (opcodeFormat v = none) := by
  simp only [isUnknownOpcode, opcodeFormat_eq_none_iff, Bool.decide_or]
  rfl

theorem isUnknownOpcode_iff_opcodeFormat (v : Byte) : isUnknownOpcode v = true ↔ opcodeFormat v = none := by
  rw [isUnknownOpcode_eq, decide_eq_true_iff]

theorem isUnknownOpcode_iff (v : Byte) : isUnknownOpcode v = true ↔ v = 0x15 ∨ 0x17 ≤ v.toNat :=
  (isUnknownOpcode_iff_opcodeFormat v).trans (opcodeFormat_eq_none_iff v)

/-- A first byte that has a format decodes to an instruction, so only the unknown ones do not, and the answer names that byte. -/
theorem decode_eq_unknown_iff (b0 b1 b2 op : Byte) : decode b0 b1 b2 = .unknown op ↔ isUnknownOpcode b0 = true ∧ b0 = op := by
  rw [isUnknownOpcode_iff_opcodeFormat]
  cases hf : opcodeFormat b0 with
  | none => simp [decode_of_unknown hf]
  | some f =>
    obtain ⟨i, hdec⟩ := exists_decode_of_format hf b1 b2
    simp [hdec]

/-- The fetch answers "unknown" for the byte at PC alone, whatever the bytes behind it (R92). -/
theorem fetch_eq_unknown_iff (s : State) (op : Byte) :
    fetch s = .unknown op ↔ isUnknownOpcode (s.read8 s.pc) = true ∧ s.read8 s.pc = op := by
  rw [fetch_eq_decode, decode_eq_unknown_iff]

/-! ## The entry -/

/-- A step at an unknown byte is a jump to the address in the vector (R93). -/
theorem step_of_isUnknownOpcode {s : State} (hrun : s.run = .running) (hop : isUnknownOpcode (s.read8 s.pc) = true) :
    step s = .next (s.jump (s.read16 nmiVector)) :=
  step_of_unknown hrun ((fetch_eq_unknown_iff s _).mpr ⟨hop, rfl⟩)

/-- Settles O40: the fetch answers "unknown" for the byte at PC alone, and the entry does not use that byte. -/
theorem unknownOpcodeCause : Obligations.UnknownOpcodeCause := by
  refine ⟨fun s hrun => ?_, fun s t op hs hbyte => ?_, fun _ _ _ => rfl, ?_⟩
  · rw [← isUnknownOpcode_iff]
    constructor
    · rintro ⟨op, hfetch, -⟩
      exact ((fetch_eq_unknown_iff s op).mp hfetch).1
    · intro hop
      exact ⟨_, (fetch_eq_unknown_iff s _).mpr ⟨hop, rfl⟩, step_of_isUnknownOpcode hrun hop⟩
  · rw [fetch_eq_unknown_iff] at hs ⊢
    rwa [hbyte]
  · simp only [isUnknownOpcode_eq]
    exact length_filter_unknown

/-- Settles O41: the entry is a jump, and its target the two bytes of the vector. -/
theorem unknownOpcodeTakesVector : Obligations.UnknownOpcodeTakesVector :=
  fun s hrun hop => ⟨s.jump (s.read16 nmiVector), step_of_isUnknownOpcode hrun ((isUnknownOpcode_iff _).mpr hop),
    joinBytes_toNat (s.read8 0xFFFF) (s.read8 0xFFFE), jump_frame s _⟩

/-! ## Nothing recorded -/

/-- A write to neither of its two bytes leaves a 16-bit read alone (R31, R32). -/
theorem read16_write8_other (s : State) {addr other : Addr} (v : Byte) (hlow : addr ≠ other) (hhigh : addr ≠ other + 1) :
    (s.write8 addr v).read16 other = s.read16 other := by
  simp only [State.read16, read8_write8_other s v hlow.symm, read8_write8_other s v hhigh.symm]

/-- Settles O42: the jump overwrites PC with an address that depends on the vector's bytes only. -/
theorem unknownOpcodeRecordsNothing : Obligations.UnknownOpcodeRecordsNothing := by
  refine ⟨fun s p q hp hq => ?_, fun s t v hop hv hlow hhigh hstep => ?_⟩
  · change step (s.jump p) = step (s.jump q)
    cases hrun : s.run with
    | running =>
      rw [step_of_isUnknownOpcode (s := s.jump p) hrun hp, step_of_isUnknownOpcode (s := s.jump q) hrun hq]
      rfl
    | halted e => rw [step_of_halted (s := s.jump p) hrun, step_of_halted (s := s.jump q) hrun]
  · obtain ⟨hrun, -⟩ := step_cases hstep
    obtain rfl := Host.Outcome.next.inj ((step_of_isUnknownOpcode hrun hop).symm.trans hstep)
    have hnew : isUnknownOpcode ((s.write8 s.pc v).read8 s.pc) = true := by rwa [read8_write8_same]
    rw [step_of_isUnknownOpcode (s := s.write8 s.pc v) hrun hnew, read16_write8_other s (other := nmiVector) v hlow hhigh]
    rfl

/-! ## An unknown opcode at the vector's target -/

theorem runSteps_succ_of_step {s t : State} (n : Nat) (h : step s = .next t) : runSteps (n + 1) s = runSteps n t := by
  simp only [runSteps, h]

/-- Settles O43: the state behind the first entry is at an unknown byte again, and the next entry leads back to it. -/
theorem unknownOpcodeAtVectorLoops : Obligations.UnknownOpcodeAtVectorLoops := by
  intro n
  induction n with
  | zero =>
    intro s hrun hop _
    exact runSteps_succ_of_step 0 (step_of_isUnknownOpcode hrun hop)
  | succ n ih =>
    intro s hrun hop hvector
    rw [runSteps_succ_of_step (n + 1) (step_of_isUnknownOpcode hrun hop)]
    exact ih (s.jump (s.read16 nmiVector)) hrun hvector hvector

end Sys2Proof.Machine

/-! # How a run ends (R112, R113)

A run ends from the inside at its last step, which is a `HLT`; a step that gives the state it began in is a run without end. -/

namespace Sys2Proof.Machine

/-! ## The result of a run -/

theorem result_eq_none_iff (s : State) : s.result = none ↔ s.run = .running := by
  unfold State.result
  split <;> simp [*]

/-- A run of `n + 1` steps is a run of `n` and a step. -/
theorem runSteps_succ_last {n : Nat} {s u : State} (h : runSteps (n + 1) s = .next u) :
    ∃ t, runSteps n s = .next t ∧ step t = .next u := by
  induction n generalizing s with
  | zero =>
    obtain ⟨t, hstep, hrest⟩ := runSteps_succ h
    exact ⟨s, rfl, hstep.trans hrest⟩
  | succ n ih =>
    obtain ⟨t, hstep, hrest⟩ := runSteps_succ h
    obtain ⟨v, hrun, hlast⟩ := ih hrest
    exact ⟨v, (runSteps_succ_of_step n hstep).trans hrun, hlast⟩

/-- Only a `HLT` leaves RUNNING (R89): every other instruction and the unknown-opcode event keep it. -/
theorem step_leaves_running {s t : State} (hstep : step s = .next t) (hend : t.run ≠ .running) :
    fetch s = .instr .hlt ∧ t = halt s.a s := by
  obtain ⟨hrun, ⟨i, hfetch, hexec⟩ | ⟨op, -, rfl⟩⟩ := step_cases hstep
  · by_cases hi : i = .hlt
    · subst hi
      exact ⟨hfetch, Host.Outcome.next.inj (hexec.symm.trans (exec_hlt s))⟩
    · rw [eq_nextState hexec] at hend
      exact absurd ((nextRun_of_ne_hlt hi s).trans hrun) hend
  · exact absurd hrun hend

/-- Settles O39: a run with a result has a last step, and that step left RUNNING. -/
theorem runEndsOnlyByHlt : Obligations.RunEndsOnlyByHlt := by
  intro n s t hrun hstart
  constructor
  · intro hend
    cases n with
    | zero =>
      obtain rfl := Host.Outcome.next.inj hrun
      exact absurd hstart hend
    | succ k =>
      obtain ⟨u, hbefore, hlast⟩ := runSteps_succ_last hrun
      obtain ⟨hfetch, rfl⟩ := step_leaves_running hlast ((result_eq_none_iff t).not.mp hend)
      exact ⟨k, u, rfl, hbefore, hfetch, rfl, rfl⟩
  · rintro ⟨k, u, -, -, -, -, hresult⟩
    rw [hresult]
    exact Option.some_ne_none _

/-! ## A run without end -/

theorem runSteps_of_step_self {s : State} (hstep : step s = .next s) (n : Nat) : runSteps n s = .next s := by
  induction n with
  | zero => rfl
  | succ n ih => exact (runSteps_succ_of_step n hstep).trans ih

/-- Settles O50: either jump answers with PC where it was, so each step gives the state it began in. -/
theorem selfJumpRunsForever : Obligations.SelfJumpRunsForever := by
  refine fun n s rel16 hrun hself => runSteps_of_step_self ?_ n
  obtain hjmp | ⟨hjr, htarget⟩ := hself
  · exact step_of_instr hrun hjmp
  · calc step s = .next (s.jump (relativeTarget s rel16)) := step_of_instr hrun hjr
      _ = .next s := by rw [htarget]; rfl

end Sys2Proof.Machine

/-! # Reset (R105 to R108)

The state the reset sequence leaves, as one term, and its bytes: the image where it was loaded, `MEM_INIT` everywhere else. -/

namespace Sys2Proof.Machine

/-! ## The booted state -/

/-- The machine with the image in memory, before PC is read from the reset vector (R105 steps 1 to 3). -/
def loadedState (p : BootParams) (image : List Byte) : State :=
  { a := p.resetA, b := p.resetB, r := p.resetR, pc := 0, sp := p.resetSP
    mem := loadBytes p.memInit loadBase image, run := .running, out := [], cfg := p.cfg }

/-- The state the reset sequence leaves (R105, R107). -/
def bootedState (p : BootParams) (image : List Byte) : State :=
  (loadedState p image).jump ((loadedState p image).read16 resetVector)

theorem imageWf_iff (image : List Byte) : imageWf image = true ↔ image.length ≤ 32768 := decide_eq_true_iff

theorem boot_of_length_le {p : BootParams} {image : List Byte} (hlen : image.length ≤ 32768) :
    boot p image = .ok (bootedState p image) :=
  if_pos ((imageWf_iff image).mpr hlen)

theorem boot_of_length_gt {p : BootParams} {image : List Byte} (hlen : 32768 < image.length) :
    boot p image = .error .imageTooLong :=
  if_neg fun hwf => hlen.not_ge ((imageWf_iff image).mp hwf)

theorem eq_bootedState {p : BootParams} {image : List Byte} {s : State} (h : boot p image = .ok s) : s = bootedState p image :=
  Except.ok.inj (h.symm.trans (boot_of_length_le (boot_eq_ok h).1))

/-- PC of a booted machine is the content of the reset vector in its own memory (R107). -/
theorem bootedState_pc (p : BootParams) (image : List Byte) :
    (bootedState p image).pc = (bootedState p image).read16 resetVector := rfl

/-- Outside the image a booted machine's bytes are those of `MEM_INIT` (R24, R105). -/
theorem bootedState_read8_outside (p : BootParams) {image : List Byte} {addr : Addr}
    (hout : addr.toNat < loadBase ∨ loadBase + image.length ≤ addr.toNat) :
    (bootedState p image).read8 addr = Memory.read p.memInit addr.toNat :=
  (loadBytes_read p.memInit loadBase addr.toNat image).trans (dif_neg (by omega))

/-! ## What the reset sequence leaves, and what it refuses -/

/-- Settles O51: the registers are the booted state's fields, and its bytes the image's or `MEM_INIT`'s. -/
theorem bootFollowsResetSequence : Obligations.BootFollowsResetSequence := by
  intro p image hlen
  have hboot : boot p image = .ok (bootedState p image) := boot_of_length_le hlen
  exact ⟨_, hboot, rfl, rfl, rfl, rfl, rfl, rfl, rfl, fun i hi => boot_read8 hboot (List.getElem?_eq_getElem hi),
    fun _ hout => bootedState_read8_outside p hout,
    joinBytes_toNat ((bootedState p image).read8 0xFFFD) ((bootedState p image).read8 0xFFFC)⟩

/-- Settles O52: an image that fits boots, and a longer one does not. -/
theorem bootRefusesLongImages : Obligations.BootRefusesLongImages := by
  refine fun p image => ⟨fun hrefused => ?_, boot_of_length_gt⟩
  by_contra hfits
  rw [boot_of_length_le (Nat.le_of_not_lt hfits)] at hrefused
  cases hrefused

/-- Settles O53: an image that fits is loaded inside the address space. -/
theorem bootKeepsMemoryCanonical : Obligations.BootKeepsMemoryCanonical := by
  intro p image s hwf hboot
  obtain ⟨hlen, hmem⟩ := boot_eq_ok hboot
  rw [hmem]
  exact loadBytes_wf hwf (Nat.add_le_add_left hlen loadBase)

/-- Settles O54: the empty image leaves every byte unlisted, the two of the reset vector included. -/
theorem resetIsBootOfEmptyImage : Obligations.ResetIsBootOfEmptyImage :=
  ⟨boot_of_length_le (Nat.zero_le _), rfl, rfl, rfl⟩

end Sys2Proof.Machine

/-! # The discipline of R110

Two states that agree in what was supplied fetch the same, and each field of the state after a step that reads only what was supplied
agrees again. A run is then an induction, and a boot with an image that supplies the reset vector is where it starts. -/

namespace Sys2Proof.Machine

/-! ## States that agree -/

/-- Whatever the fetch finds at PC, it reads the byte there (R42). -/
theorem pc_mem_fetchedAddresses (s : State) : s.pc ∈ fetchedAddresses s := by
  unfold fetchedAddresses
  split <;> exact List.mem_cons_self

namespace Supplied.Agree

variable {k : Supplied} {s t : State}

theorem pc_eq (h : k.Agree s t) : s.pc = t.pc := by
  obtain ⟨hpc, -⟩ := h
  exact hpc

theorem run_eq (h : k.Agree s t) : s.run = t.run := by
  obtain ⟨-, hrun, -⟩ := h
  exact hrun

theorem out_eq (h : k.Agree s t) : s.out = t.out := by
  obtain ⟨-, -, hout, -⟩ := h
  exact hout

theorem cfg_eq (h : k.Agree s t) : s.cfg = t.cfg := by
  obtain ⟨-, -, -, hcfg, -⟩ := h
  exact hcfg

theorem a_eq (h : k.Agree s t) (ha : k.a = true) : s.a = t.a := by
  obtain ⟨-, -, -, -, heq, -⟩ := h
  exact heq ha

theorem b_eq (h : k.Agree s t) (hb : k.b = true) : s.b = t.b := by
  obtain ⟨-, -, -, -, -, heq, -⟩ := h
  exact heq hb

theorem r_eq (h : k.Agree s t) (hr : k.r = true) : s.r = t.r := by
  obtain ⟨-, -, -, -, -, -, heq, -⟩ := h
  exact heq hr

theorem sp_eq (h : k.Agree s t) (hsp : k.sp = true) : s.sp = t.sp := by
  obtain ⟨-, -, -, -, -, -, -, heq, -⟩ := h
  exact heq hsp

theorem read8_eq (h : k.Agree s t) {addr : Addr} (hmem : k.mem addr = true) : s.read8 addr = t.read8 addr := by
  obtain ⟨-, -, -, -, -, -, -, -, heq⟩ := h
  exact heq addr hmem

/-! ## The stack and the targets in states that agree -/

theorem pushAddress_eq (h : k.Agree s t) (hsp : k.sp = true) : pushAddress s = pushAddress t := by
  rw [pushAddress, pushAddress, h.cfg_eq, h.sp_eq hsp]

theorem popAddress_eq (h : k.Agree s t) (hsp : k.sp = true) : popAddress s = popAddress t := by
  rw [popAddress, popAddress, h.cfg_eq, h.sp_eq hsp]

theorem returnAddress_eq (h : k.Agree s t) : returnAddress s = returnAddress t := by
  rw [returnAddress, returnAddress, h.cfg_eq, h.pc_eq]

theorem relativeTarget_eq (h : k.Agree s t) (rel16 : Addr) : relativeTarget s rel16 = relativeTarget t rel16 := by
  rw [relativeTarget, relativeTarget, h.cfg_eq, h.pc_eq]

/-- A pop of two supplied bytes gives the same value. -/
theorem pop16_fst_eq (h : k.Agree s t) (hsp : k.sp = true) (hfirst : k.mem (popAddress s) = true)
    (hsecond : k.mem (popAddress s - 1) = true) : (pop16 s).1 = (pop16 t).1 := by
  rw [pop16_spec, pop16_spec, h.read8_eq hfirst, h.read8_eq hsecond, h.popAddress_eq hsp, h.cfg_eq]

/-! ## The fetch -/

/-- A fetch of supplied bytes gives the same answer: it reads the instruction's own bytes only (R42). -/
theorem fetch_eq (h : k.Agree s t) (hfetched : ∀ addr ∈ fetchedAddresses s, k.mem addr = true) : fetch s = fetch t := by
  have hread : ∀ addr ∈ fetchedAddresses s, s.read8 addr = t.read8 addr := fun addr haddr => h.read8_eq (hfetched addr haddr)
  unfold fetch
  rw [← h.pc_eq, ← hread s.pc (pc_mem_fetchedAddresses s)]
  cases hf : opcodeFormat (s.read8 s.pc) with
  | none => rfl
  | some f =>
    cases f with
    | F0 => rfl
    | F8 => rw [hread (s.pc + 1) (by simp [fetchedAddresses, hf])]
    | F16 => rw [hread (s.pc + 1) (by simp [fetchedAddresses, hf]), hread (s.pc + 2) (by simp [fetchedAddresses, hf])]

end Supplied.Agree

/-- The fetch of an unknown opcode reads its vector as well (R28, R93). -/
theorem fetchedAddresses_of_unknown {s : State} {op : Byte} (hf : fetch s = .unknown op) :
    fetchedAddresses s = [s.pc, nmiVector, nmiVector + 1] := by
  have hnone := (isUnknownOpcode_iff_opcodeFormat _).mp ((fetch_eq_unknown_iff s op).mp hf).1
  simp only [fetchedAddresses, hnone]

/-! ## An instruction, field by field -/

section Instruction

variable {k : Supplied} {s t : State} {i : Instr}

theorem nextA_congr (h : k.Agree s t) (hregs : k.registersFor i = true)
    (hloaded : ∀ addr ∈ loadedAddresses i s, k.mem addr = true) (ha : (k.after i s).a = true) : nextA i s = nextA i t := by
  cases hw : writesA i with
  | false =>
    rw [nextA_of_not_writesA hw, nextA_of_not_writesA hw]
    exact h.a_eq (by simpa [Supplied.after, hw] using ha)
  | true =>
    cases i with
    | tba => exact h.b_eq hregs
    | ldaImm _ => rfl
    | ldaMem addr16 => exact h.read8_eq (hloaded _ List.mem_cons_self)
    | pla => exact (h.read8_eq (hloaded _ List.mem_cons_self)).trans (congrArg t.read8 (h.popAddress_eq hregs))
    | _ => cases hw

theorem nextB_congr (h : k.Agree s t) (hregs : k.registersFor i = true)
    (hloaded : ∀ addr ∈ loadedAddresses i s, k.mem addr = true) (hb : (k.after i s).b = true) : nextB i s = nextB i t := by
  cases hw : writesB i with
  | false =>
    rw [nextB_of_not_writesB hw, nextB_of_not_writesB hw]
    exact h.b_eq (by simpa [Supplied.after, hw] using hb)
  | true =>
    cases i with
    | tab => exact h.a_eq hregs
    | ldbImm _ => rfl
    | ldbMem addr16 => exact h.read8_eq (hloaded _ List.mem_cons_self)
    | _ => cases hw

theorem nextR_congr (h : k.Agree s t) (hregs : k.registersFor i = true) (hr : (k.after i s).r = true) :
    nextR i s = nextR i t := by
  cases hw : writesR i with
  | false =>
    rw [nextR_of_not_writesR hw, nextR_of_not_writesR hw]
    exact h.r_eq (by simpa [Supplied.after, hw] using hr)
  | true =>
    cases i with
    | add imm8 => exact congrArg (sumResult · (immediate imm8)) (h.a_eq hregs)
    | sub imm8 | cmp imm8 => exact congrArg (differenceResult · (immediate imm8)) (h.a_eq hregs)
    | _ => cases hw

/-- Where `SETSP` supplies SP it is the operand; every other instruction makes the new SP from the old one (R16). -/
theorem nextSP_congr (h : k.Agree s t) (hsp : (k.after i s).sp = true) : nextSP i s = nextSP i t := by
  cases hw : setsSP i with
  | false =>
    have heq : s.sp = t.sp := h.sp_eq (by simpa [Supplied.after, hw] using hsp)
    cases i with
    | setsp _ => cases hw
    | pha => exact congrArg (· + 1) heq
    | pla => exact congrArg (· - 1) heq
    | call _ => exact congrArg (· + 1 + 1) heq
    | rts => exact congrArg (· - 1 - 1) heq
    | _ => exact heq
  | true =>
    cases i with
    | setsp _ => rfl
    | _ => cases hw

theorem nextPC_congr (h : k.Agree s t) (hregs : k.registersFor i = true)
    (hloaded : ∀ addr ∈ loadedAddresses i s, k.mem addr = true) : nextPC i s = nextPC i t := by
  cases i with
  | jz target => simp only [nextPC, h.r_eq hregs, h.pc_eq]
  | jr rel16 => exact h.relativeTarget_eq rel16
  | rts =>
    have hpopped : (pop16 s).1 = (pop16 t).1 :=
      h.pop16_fst_eq hregs (hloaded _ List.mem_cons_self) (hloaded _ (List.mem_cons_of_mem _ List.mem_cons_self))
    simp only [nextPC, returnTarget, hpopped, h.cfg_eq]
  | jmp _ | call _ => rfl
  | _ => simp only [nextPC, h.pc_eq]

theorem nextRun_congr (h : k.Agree s t) (hregs : k.registersFor i = true) : nextRun i s = nextRun i t := by
  by_cases hi : i = .hlt
  · subst hi
    exact congrArg RunState.halted (h.a_eq hregs)
  · rw [nextRun_of_ne_hlt hi, nextRun_of_ne_hlt hi, h.run_eq]

theorem nextOut_congr (h : k.Agree s t) (hregs : k.registersFor i = true) : nextOut i s = nextOut i t := by
  by_cases hi : i = .outa
  · subst hi
    have ha : s.a = t.a := h.a_eq hregs
    simp only [nextOut, ha, h.out_eq]
  · rw [nextOut_of_ne_outa hi, nextOut_of_ne_outa hi, h.out_eq]

/-! ## The bytes an instruction stores -/

theorem storedAddresses_congr (h : k.Agree s t) (hregs : k.registersFor i = true) :
    storedAddresses i s = storedAddresses i t := by
  cases i with
  | pha =>
    obtain ⟨-, hsp⟩ := (Bool.and_eq_true _ _).mp hregs
    simp only [storedAddresses, h.pushAddress_eq hsp]
  | call _ => simp only [storedAddresses, h.pushAddress_eq hregs]
  | _ => rfl

/-- Writes of equal bytes to one address read the same there, whatever else memory holds. -/
theorem read8_write8_same_congr (addr : Addr) {v w : Byte} (hvw : v = w) :
    (s.write8 addr v).read8 addr = (t.write8 addr w).read8 addr := by
  rw [read8_write8_same, read8_write8_same, hvw]

/-- A stored byte is made of what the instruction reads: a register, or PC and the configuration. -/
theorem nextState_read8_stored_congr (h : k.Agree s t) (hregs : k.registersFor i = true) {addr : Addr}
    (hstored : addr ∈ storedAddresses i s) : (nextState i s).read8 addr = (nextState i t).read8 addr := by
  cases i with
  | sta addr16 =>
    rw [List.mem_singleton.mp hstored]
    exact read8_write8_same_congr (effectiveAddress addr16) (h.a_eq hregs)
  | stb addr16 =>
    rw [List.mem_singleton.mp hstored]
    exact read8_write8_same_congr (effectiveAddress addr16) (h.b_eq hregs)
  | pha =>
    obtain ⟨ha, hsp⟩ := (Bool.and_eq_true _ _).mp hregs
    rw [List.mem_singleton.mp hstored]
    change (push8 s.a s).read8 (pushAddress s) = (push8 t.a t).read8 (pushAddress s)
    rw [push8_read8_same, h.pushAddress_eq hsp, push8_read8_same, h.a_eq ha]
  | call _ =>
    change (push16 (returnAddress s) s).read8 addr = (push16 (returnAddress t) t).read8 addr
    obtain rfl | hsecond := List.mem_cons.mp hstored
    · rw [push16_read8_first, h.pushAddress_eq hregs, push16_read8_first, h.returnAddress_eq, h.cfg_eq]
    · obtain rfl := List.mem_singleton.mp hsecond
      rw [push16_read8_second, h.pushAddress_eq hregs, push16_read8_second, h.returnAddress_eq, h.cfg_eq]
  | _ => cases hstored

/-- Every byte supplied after an instruction was stored by it, or was supplied before and left alone. -/
theorem nextState_read8_congr (h : k.Agree s t) (hregs : k.registersFor i = true) {addr : Addr}
    (hmem : (k.after i s).mem addr = true) : (nextState i s).read8 addr = (nextState i t).read8 addr := by
  by_cases hstored : addr ∈ storedAddresses i s
  · exact nextState_read8_stored_congr h hregs hstored
  · have hkept : addr ∉ storedAddresses i t := storedAddresses_congr h hregs ▸ hstored
    rw [nextState_sameBytesBut i s addr hstored, nextState_sameBytesBut i t addr hkept]
    exact h.read8_eq (by simpa [Supplied.after, hstored] using hmem)

/-- States that agree do so after an instruction that reads only what was supplied (R110 items 3 to 6). -/
theorem nextState_agree (h : k.Agree s t) (hregs : k.registersFor i = true)
    (hloaded : ∀ addr ∈ loadedAddresses i s, k.mem addr = true) : (k.after i s).Agree (nextState i s) (nextState i t) :=
  ⟨nextPC_congr h hregs hloaded, nextRun_congr h hregs, nextOut_congr h hregs, h.cfg_eq, nextA_congr h hregs hloaded,
    nextB_congr h hregs hloaded, nextR_congr h hregs, nextSP_congr h, fun _ => nextState_read8_congr h hregs⟩

end Instruction

/-! ## A step -/

/-- States that agree do so after the unknown-opcode event, where the vector was supplied (R93). -/
theorem raiseUnknownOpcode_agree {k : Supplied} {s t : State} (h : k.Agree s t) (op : Byte) (hlow : k.mem nmiVector = true)
    (hhigh : k.mem (nmiVector + 1) = true) : k.Agree (raiseUnknownOpcode op s) (raiseUnknownOpcode op t) := by
  have hvector : s.read16 nmiVector = t.read16 nmiVector := by
    rw [State.read16, State.read16, h.read8_eq hlow, h.read8_eq hhigh]
  exact ⟨hvector, h.run_eq, h.out_eq, h.cfg_eq, h.a_eq, h.b_eq, h.r_eq, h.sp_eq, fun _ => h.read8_eq⟩

/-- Settles O56: both states fetch the same, and what they fetched leaves them in agreement. -/
theorem suppliedStateDecidesStep : Obligations.SuppliedStateDecidesStep := by
  intro k s t u h hallows hstep
  obtain ⟨hfetchedAll, hreads⟩ := (Bool.and_eq_true _ _).mp hallows
  have hfetched : ∀ addr ∈ fetchedAddresses s, k.mem addr = true := List.all_eq_true.mp hfetchedAll
  have hsame : fetch s = fetch t := h.fetch_eq hfetched
  obtain ⟨hrun, ⟨i, hf, hexec⟩ | ⟨op, hf, rfl⟩⟩ := step_cases hstep
  · simp only [hf, Bool.and_eq_true, List.all_eq_true] at hreads
    obtain ⟨hregs, hloaded⟩ := hreads
    rw [eq_nextState hexec]
    refine ⟨nextState i t, (step_of_instr (h.run_eq ▸ hrun) (hsame ▸ hf)).trans (exec_eq i t), ?_⟩
    simp only [Supplied.afterStep, hf]
    exact nextState_agree h hregs hloaded
  · rw [fetchedAddresses_of_unknown hf] at hfetched
    refine ⟨raiseUnknownOpcode op t, step_of_unknown (h.run_eq ▸ hrun) (hsame ▸ hf), ?_⟩
    simp only [Supplied.afterStep, hf]
    exact raiseUnknownOpcode_agree h op (hfetched _ (by simp)) (hfetched _ (by simp))

/-! ## A run from a boot -/

/-- Where a first step is taken, the discipline of a run is that of the step and that of the rest. -/
theorem allowsRun_succ_of_step {n : Nat} {k : Supplied} {s t : State} (hstep : step s = .next t) :
    k.allowsRun (n + 1) s = (k.allowsStep s && (k.afterStep s).allowsRun n t) := by
  obtain ⟨hrun, -⟩ := step_cases hstep
  simp only [Supplied.allowsRun, hrun, hstep]

/-- A run that reads only what was supplied is taken by every state that agrees, and the two end in agreement. -/
theorem runSteps_agree {n : Nat} {k : Supplied} {s t u : State} (h : k.Agree s t) (hallows : k.allowsRun n s = true)
    (hrun : runSteps n s = .next u) : ∃ v, runSteps n t = .next v ∧ ∃ k' : Supplied, k'.Agree u v := by
  induction n generalizing k s t with
  | zero =>
    obtain rfl := Host.Outcome.next.inj hrun
    exact ⟨t, rfl, k, h⟩
  | succ n ih =>
    obtain ⟨s', hstep, hrest⟩ := runSteps_succ hrun
    rw [allowsRun_succ_of_step hstep, Bool.and_eq_true] at hallows
    obtain ⟨hallowsStep, hallowsRest⟩ := hallows
    obtain ⟨t', hstep', h'⟩ := suppliedStateDecidesStep k s t s' h hallowsStep hstep
    rw [runSteps_succ_of_step n hstep']
    exact ih h' hallowsRest hrest

theorem suppliedByImage_mem_iff (len : Nat) (addr : Addr) :
    (suppliedByImage len).mem addr = true ↔ loadBase ≤ addr.toNat ∧ addr.toNat < loadBase + len := by
  simp only [suppliedByImage, Bool.and_eq_true, decide_eq_true_eq]

/-- The byte of the image at an address it fills, whatever `MEM_INIT` is (R105). -/
theorem bootedState_read8_inside (p : BootParams) {image : List Byte} {addr : Addr}
    (hin : loadBase ≤ addr.toNat ∧ addr.toNat < loadBase + image.length) :
    (bootedState p image).read8 addr = image[addr.toNat - loadBase]'(by omega) :=
  (loadBytes_read p.memInit loadBase addr.toNat image).trans (dif_pos hin)

/-- Boots of one image that supplies the reset vector agree in what the image supplies (R110). -/
theorem bootedState_agree {p q : BootParams} {image : List Byte} (hcfg : p.cfg = q.cfg) (hvector : 32766 ≤ image.length) :
    (suppliedByImage image.length).Agree (bootedState p image) (bootedState q image) := by
  have hread : ∀ addr : Addr, (suppliedByImage image.length).mem addr = true →
      (bootedState p image).read8 addr = (bootedState q image).read8 addr := by
    intro addr haddr
    have hin := (suppliedByImage_mem_iff image.length addr).mp haddr
    rw [bootedState_read8_inside p hin, bootedState_read8_inside q hin]
  have hlowAddr : resetVector.toNat = 0xFFFC := rfl
  have hhighAddr : (resetVector + 1).toNat = 0xFFFD := rfl
  have hlow : (suppliedByImage image.length).mem resetVector = true :=
    (suppliedByImage_mem_iff _ _).mpr ⟨by decide, by rw [hlowAddr, loadBase]; omega⟩
  have hhigh : (suppliedByImage image.length).mem (resetVector + 1) = true :=
    (suppliedByImage_mem_iff _ _).mpr ⟨by decide, by rw [hhighAddr, loadBase]; omega⟩
  refine ⟨?_, rfl, rfl, hcfg, nofun, nofun, nofun, nofun, hread⟩
  rw [bootedState_pc, bootedState_pc, State.read16, State.read16, hread _ hlow, hread _ hhigh]

/-- Settles O57: the two boots agree in what the image supplies, and the run keeps agreement. -/
theorem disciplinedRunIgnoresOpenParameters : Obligations.DisciplinedRunIgnoresOpenParameters := by
  intro p q image s t u n hcfg hvector hbootP hbootQ hallows hrun
  rw [eq_bootedState hbootP] at hallows hrun
  rw [eq_bootedState hbootQ]
  obtain ⟨v, hrun', k, hagree⟩ := runSteps_agree (bootedState_agree hcfg hvector) hallows hrun
  exact ⟨v, hrun', hagree.pc_eq.symm, hagree.run_eq.symm, hagree.out_eq.symm⟩

end Sys2Proof.Machine
